-- ==== Sys2Proof/Word.lean ====
section
/-! DEFINITION. The words of the part: the octet of every line and cell, and the 16-bit check. -/

namespace Sys2Proof

/-- One octet, as a line carries it and a cell stores it (manual section 4). -/
abbrev Byte := BitVec 8

/-- The 16-bit check register and the check itself (R4). -/
abbrev Word16 := BitVec 16

end Sys2Proof
end

