-- ==== Sys2Proof/Syntax.lean ====
section
/-! DEFINITION. The commands of the part: one constructor of Instr for each row of spec/opcode_table.json. -/

namespace Sys2Proof

/-- The three lines (section 4); their line codes are 0, 1 and 2 (section 1.8). -/
inductive Line where
  | a | b | l
  deriving DecidableEq, Repr

/-- The steps of the part, one constructor per row of the opcode table. What a line or a pin brings to a step is the
step's operand; everything else a step needs stands in the state (log 1). -/
inductive Instr where
  /-- RESET recognised high (R181). -/
  | hardwareReset
  /-- The falling edge of RESET (R181). -/
  | resetNegated
  /-- The millisecond tick (R180). -/
  | timebaseTick
  /-- A bit on RDx in HUNT whose comparison matches (R14). -/
  | huntMatch (line : Line) (bit : Bool)
  /-- An aligned octet in CONFIRM (R15). -/
  | octetInConfirm (line : Line) (octet : Byte)
  /-- An aligned octet in GAP (R17). -/
  | octetInGap (line : Line) (octet : Byte)
  /-- An aligned octet in GAP-SYN (R18). -/
  | octetInGapSyn (line : Line) (octet : Byte)
  /-- Header octets 1 to 5 (R21). -/
  | headerOctet (line : Line) (octet : Byte)
  /-- The sixth header octet (R24). -/
  | headerCompletion (line : Line) (octet : Byte)
  /-- A text octet (R27). -/
  | textOctet (line : Line) (octet : Byte)
  /-- The first check octet (R28). -/
  | checkOctet (line : Line) (octet : Byte)
  /-- The second check octet (R28). -/
  | blockCompletion (line : Line) (octet : Byte)
  /-- The reception deadline reaches 0 (R31): the tick under way reaches a countdown at 1 (R30; log 5). -/
  | deadlineExpiry (line : Line)
  /-- The end of a fill pair in FILL: `hold` is HLDx at the selection, `further` its level at each further selection
  of the same event, the last level standing for the rest (R107, R109; log 8). -/
  | fillPairEnd (line : Line) (hold : Bool) (further : List Bool)
  /-- The end of a gap pair in GAP, with HLDx as for `fillPairEnd` (R115). -/
  | gapPairEnd (line : Line) (hold : Bool) (further : List Bool)
  /-- The second check octet of the block in transmission has been sent (R114). -/
  | blockSent (line : Line)
  /-- The engine takes a session (R125). -/
  | sessionTake
  /-- A record that runs past the end of the text (R129). -/
  | malformedRecord
  /-- A record stopped at step 1 or step 3 (R131). -/
  | walkTruncation
  /-- A delimited record under REINIT-PENDING (R128). -/
  | skippedRecord
  /-- A record whose CODE is not 0x01 to 0x10 (R128). -/
  | unknownRequestRecord
  /-- IDENTIFY (R142). -/
  | identify
  /-- LINE-SET (R143). -/
  | lineSet
  /-- LINE-GET (R147). -/
  | lineGet
  /-- LINE-RESTART (R148). -/
  | lineRestart
  /-- QUEUE-FLUSH (R149). -/
  | queueFlush
  /-- DEFAULT-SET (R157). -/
  | defaultSet
  /-- ROUTE-INSERT (R152). -/
  | routeInsert
  /-- ROUTE-UPDATE (R153). -/
  | routeUpdate
  /-- ROUTE-DELETE (R154). -/
  | routeDelete
  /-- ROUTE-READ (R155). -/
  | routeRead
  /-- ROUTE-FIND (R156). -/
  | routeFind
  /-- COUNTERS-READ (R158). -/
  | countersRead
  /-- NOTICE-SET (R160). -/
  | noticeSet
  /-- SELF-SET (R162). -/
  | selfSet
  /-- FLUSH-ALL (R163). -/
  | flushAll
  /-- REINIT (R165). -/
  | reinit
  /-- The session ends (R133). -/
  | sessionEnd
  /-- The reset a REINIT deferred (R137). -/
  | reinitReset
  /-- The notice interval timer reaches 0 (R172): the tick under way reaches a timer at 1 (log 5). -/
  | intervalTimerExpiry
  /-- The emitter builds and queues a notice (R173). -/
  | noticeBuild
  /-- A record whose PLEN is not its code's (R128). -/
  | badLengthRecord
  /-- A bit on RDx in HUNT whose comparison does not match (R14). -/
  | huntComparisonNoMatch (line : Line) (bit : Bool)
  deriving DecidableEq, Repr

end Sys2Proof
end

