-- ==== Sys2Proof/Config.lean ====
section
/-! DEFINITION. What the part fixes: octet codes, block kinds, pool sizes and limits. The spec leaves no value
open that an operation of the part reads, so there is no free value here (log 17). -/

namespace Sys2Proof.Config

/-- The block start octet BLK (R1). -/
abbrev blk : Byte := 0x5A
/-- KIND of a management request (section 1.5). -/
abbrev kindMgmt : Byte := 0xF0
/-- KIND of a reply (section 1.5). -/
abbrev kindReply : Byte := 0xF1
/-- KIND of a notice (section 1.5). -/
abbrev kindNotice : Byte := 0xF2
/-- The largest LEN of a well-formed header (R3). -/
abbrev maxLen : Nat := 1020
/-- Octets in one cell (R36). -/
abbrev cellSize : Nat := 64
/-- Octets in the whole block buffer: 512 cells (R36). -/
abbrev bufferSize : Nat := 32768
/-- Cells of the general part: cells 0 to 493 (R36). -/
abbrev generalCells : Nat := 494
/-- Descriptors of the general part: 0 to 125 (R36). -/
abbrev generalDescs : Nat := 126
/-- Tickets of the general part: 0 to 189 (R36). -/
abbrev generalTickets : Nat := 190
/-- The reply descriptor (R36). -/
abbrev replyDesc : Nat := 126
/-- The notice descriptor (R36). -/
abbrev noticeDesc : Nat := 127
/-- The reply ticket (R36). -/
abbrev replyTicket : Nat := 190
/-- The notice ticket (R36). -/
abbrev noticeTicket : Nat := 191
/-- The level BUFFER-LOW is raised below (R52). -/
abbrev lowLevel : Nat := 48
/-- The level BUFFER-RECOVERED is raised above (R53). -/
abbrev highLevel : Nat := 96
/-- The value a 32-bit counter stays at (R166). -/
abbrev counterMax : Nat := 4294967295
/-- The value a ticket age and an event COUNT stay at (R104, R170). -/
abbrev countMax : Nat := 65535
/-- The most management blocks that wait (R91). -/
abbrev mgmtQueueMax : Nat := 4
/-- The most results of one session (R128). -/
abbrev maxResults : Nat := 16
/-- The most octets of result records in one reply (R130). -/
abbrev replyRoom : Nat := 378
/-- The run of URGENT blocks after which a waiting NORMAL block is served (R108). -/
abbrev runLimit : Nat := 8
/-- The last value of the REFCLK divide count (R180). -/
abbrev divideMax : Nat := 3999

end Sys2Proof.Config
end

