-- ==== Sys2Proof/Machine/State.lean ====
section
/-! DEFINITION. The state of the part, one structure per block that owns it (manual section 2), the reasons a step could
stop, and the part after hardware reset. -/

namespace Sys2Proof.Machine

/-- One value for each line. -/
structure PerLine (α : Type) where
  a : α
  b : α
  l : α
  deriving DecidableEq, Repr

/-- A set of lines (section 4); empty only where a table allows it. -/
structure LineSet where
  a : Bool
  b : Bool
  l : Bool
  deriving DecidableEq, Repr

/-- The class of a copy and of a queue (R101). -/
inductive QClass where
  | urgent | normal
  deriving DecidableEq, Repr

/-! ### Line configuration (section 1.7.3, R143) -/

/-- One line's configuration record; after hardware reset the values of section 1.7.3. -/
structure LineConfig where
  syn1 : Byte := 0x96
  syn2 : Byte := 0x69
  gapPairs : Nat := 1
  deadline : Nat := 200
  ageLimit : Nat := 0
  urgentLimit : Nat := 64
  normalLimit : Nat := 256
  permitted : Bool := true
  deriving DecidableEq, Repr

/-! ### Receivers (R12) -/

/-- Receiver states (chapter 2, section 2.1). -/
inductive RxState where
  | hunt | confirm | gap | gapSyn | header | body | check
  deriving DecidableEq, Repr

/-- Whether the receiver stores its block or only follows it (R12). -/
inductive Disposition where
  | store | sink
  deriving DecidableEq, Repr

/-- The reception deadline (R30). The tick that lowers a countdown to 0 is its expiry, so no run leaves `running 0`
(log 5). -/
inductive Deadline where
  | stopped
  | running (ms : Nat)
  deriving DecidableEq, Repr

/-- The cell being filled and how many of its octets are written (R12). -/
structure CellFill where
  cell : Nat
  fill : Nat
  deriving DecidableEq, Repr

/-- One line's receiver (R12); the default values are those after hardware reset. -/
structure Receiver where
  state : RxState := .hunt
  /-- the last eight bits received, oldest first, fewer after a reset -/
  history : List Bool := []
  /-- none: not fixed; some p: fixed, with p bits of the octet under way received (R12, R179) -/
  align : Option Nat := none
  header : List Byte := []
  position : Nat := 0
  disposition : Option Disposition := none
  crc : Option Word16 := none
  /-- the first check octet, held until the second (R28) -/
  heldCheck : Option Byte := none
  filling : Option Nat := none
  cell : Option CellFill := none
  deadline : Deadline := .stopped
  /-- the in-sync output INSx (R13) -/
  ins : Bool := false
  deriving DecidableEq, Repr

/-! ### Block buffer (chapter 3) -/

/-- Cell contents: (address, octet) pairs with rising addresses, address 64 c + k for octet k of cell c (log 15). -/
abbrev Memory := List Host.Cell

/-- Descriptor states (R41). -/
inductive DescState where
  | free | filling | held | building | queued
  deriving DecidableEq, Repr

/-- Where a descriptor's block comes from (R40). -/
inductive Origin where
  | received | reply | notice
  deriving DecidableEq, Repr

/-- The bound route slot of a descriptor (R40). -/
inductive Bound where
  | none
  | slot (n : Nat)
  | default (line : Line)
  deriving DecidableEq, Repr

/-- What a route does with a block (R58). -/
inductive Action where
  | forward | discard
  deriving DecidableEq, Repr

/-- A descriptor (R40, and the captured action of R81). State, chain, ticket count and bound slot are reset by R56; the
other after-reset values are DESIGN CHOICE, never read (log 11). -/
structure Descriptor where
  state : DescState := .free
  ingress : Option Line := none
  origin : Origin := .received
  chain : List Nat := []
  len : Nat := 0
  dst : Byte := 0
  src : Byte := 0
  kind : Byte := 0
  seq : Byte := 0
  mark : Bool := false
  txDst : Byte := 0
  action : Action := .discard
  cls : QClass := .normal
  egress : LineSet := ⟨false, false, false⟩
  bound : Bound := .none
  tickets : Nat := 0
  deriving DecidableEq, Repr

/-- Ticket states (R43). -/
inductive TicketState where
  | free | waiting | sending
  deriving DecidableEq, Repr

/-- A ticket (R43); the state is reset by R56, the other after-reset values are DESIGN CHOICE, never read (log 11). -/
structure Ticket where
  state : TicketState := .free
  desc : Nat := 0
  line : Line := .a
  cls : QClass := .normal
  age : Nat := 0
  deriving DecidableEq, Repr

/-- Why a ticket is released (R45). -/
inductive Cause where
  | sent | staleDrop | flush
  deriving DecidableEq, Repr

/-- What the Buffer Manager owns (chapter 3); the default values are those of R56, and cell contents that nothing has
written (log 10). -/
structure Buffer where
  mem : Memory := []
  freeCells : List Nat := List.range 494
  freePart : List Nat := List.range' 494 18
  descs : List Descriptor := List.replicate 128 {}
  freeDescs : List Nat := List.range 126
  tickets : List Ticket :=
    List.replicate 190 ⟨.free, 0, .a, .normal, 0⟩ ++ [⟨.free, 126, .a, .urgent, 0⟩, ⟨.free, 127, .a, .urgent, 0⟩]
  freeTickets : List Nat := List.range 190
  hwCells : Nat := 0
  hwDescs : Nat := 0
  lowArmed : Bool := true
  deriving DecidableEq, Repr

/-! ### Route Table (chapter 4) -/

/-- The route fields of a slot (R58): a DISCARD entry has no egress set, class or rewrite. -/
inductive Route where
  | forward (egress : LineSet) (cls : QClass) (rewrite : Option Byte)
  | discard
  deriving DecidableEq, Repr

/-- A sequence check (R58). -/
structure SeqCheck where
  window : Nat
  expected : Byte
  primed : Bool
  deriving DecidableEq, Repr

/-- The entry of an ACTIVE or RETIRING slot (R58). -/
structure Entry where
  keyLine : Line
  keyDst : Byte
  route : Route
  seqCheck : Option SeqCheck
  blocks : Nat := 0
  octets : Nat := 0
  duplicates : Nat := 0
  gaps : Nat := 0
  binds : Nat := 0
  deriving DecidableEq, Repr

/-- A route slot (R57); a FREE slot holds no entry. -/
inductive Slot where
  | free
  | active (e : Entry)
  | retiring (e : Entry)
  deriving DecidableEq, Repr

/-- A default route (R61). -/
inductive DefaultRoute where
  | forward (egress : LineSet) (cls : QClass)
  | discard
  deriving DecidableEq, Repr

/-- What the Route Table owns; the default values are those of R80 and R61. -/
structure RouteTable where
  slots : List Slot := List.replicate 96 .free
  defaults : PerLine DefaultRoute :=
    ⟨.forward ⟨false, true, false⟩ .normal, .forward ⟨true, false, false⟩ .normal, .discard⟩
  deriving DecidableEq, Repr

/-! ### Egress queues and transmitters (section 6.1) -/

/-- Transmitter states (section 6.3). -/
inductive TxState where
  | fill | gap | sending
  deriving DecidableEq, Repr

/-- The unit under way on TDx: held high under RESET, a pair as read when it was begun (R106), or a block's octets
(R111); log 9. -/
inductive LineOut where
  | heldHigh
  | pair (syn1 syn2 : Byte)
  | block (octets : List Byte)
  deriving DecidableEq, Repr

/-- One line's queue block and transmitter; the default values are those of R120. -/
structure Egress where
  urgent : List Nat := []
  normal : List Nat := []
  state : TxState := .fill
  ticket : Option Nat := none
  gapLeft : Nat := 0
  run : Nat := 0
  out : LineOut := .pair 0x96 0x69
  /-- the bits of the unit that TDx has presented, which a stopped TCx leaves where they are (R113, R179) -/
  place : Nat := 0
  /-- the level of TDx: the last bit presented (R179), or high since RESET (R181) -/
  tdx : Bool := true
  deriving DecidableEq, Repr

/-! ### Management Engine (R122) -/

/-- Engine states (section 7.3). -/
inductive EngineState where
  | idle | executing | reinitPending
  deriving DecidableEq, Repr

/-- The walk outcome (R122); `walking` is the value the manual calls open. -/
inductive WalkOutcome where
  | walking | ended | malformed | truncated
  deriving DecidableEq, Repr

/-- The session items (R122). -/
structure Session where
  request : Nat
  position : Nat
  results : Nat
  replyLen : Nat
  outcome : WalkOutcome
  deriving DecidableEq, Repr

/-- What the Management Engine owns, its counters aside (R122). -/
structure Engine where
  state : EngineState := .idle
  queue : List Nat := []
  session : Option Session := none
  deriving DecidableEq, Repr

/-! ### Notice Emitter (R169) -/

/-- The events that reach the Notice Emitter, with their subjects (section 9.2). -/
inductive Event where
  | syncLost (line : Line)
  | syncGained (line : Line)
  | bufferLow
  | bufferRecovered
  | routeFreed (slot : Nat)
  | mgmtOverflow (line : Line)
  deriving DecidableEq, Repr

/-- A record whose subject is that of its latest occurrence (R169). -/
structure Latest (α : Type) where
  subject : α
  count : Nat
  deriving DecidableEq, Repr

/-- The pending set: at most one record for each of its ten keys (R169). -/
structure PendingSet where
  syncLost : PerLine (Option Nat) := ⟨none, none, none⟩
  syncGained : PerLine (Option Nat) := ⟨none, none, none⟩
  bufferLow : Option Nat := none
  bufferRecovered : Option Nat := none
  routeFreed : Option (Latest Nat) := none
  mgmtOverflow : Option (Latest Line) := none
  deriving DecidableEq, Repr

/-- The interval timer (R169). The tick that lowers it to 0 is its expiry (R172), so no run leaves `running 0` (log 5). -/
inductive Timer where
  | expired
  | running (ms : Nat)
  deriving DecidableEq, Repr

/-- What the Notice Emitter owns; the default values are those of R169. No event is on its way to it after a reset. -/
structure Emitter where
  enabled : Bool := false
  station : Byte := 0xFF
  line : Line := .a
  interval : Nat := 100
  pending : PendingSet := {}
  timer : Timer := .expired
  seq : Byte := 0
  /-- the events that have reached the emitter and that it has still to take, in the order raised (R171; log 4) -/
  inbox : List Event := []
  deriving DecidableEq, Repr

/-! ### Counter Store (R166) -/

/-- The RX group of one line, in member order (section 1.7.4). -/
structure RxCounters where
  goodBlocks : Nat := 0
  goodOctets : Nat := 0
  checkFailures : Nat := 0
  headerFaults : Nat := 0
  syncLosses : Nat := 0
  syncAcquisitions : Nat := 0
  deadlineAbandons : Nat := 0
  descExhausted : Nat := 0
  bufferExhausted : Nat := 0
  mgmtRefused : Nat := 0
  strayToSelf : Nat := 0
  defaultHits : Nat := 0
  retiredCompletions : Nat := 0
  deriving DecidableEq, Repr

/-- The TX group of one line, in member order (section 1.7.4). -/
structure TxCounters where
  blocksSent : Nat := 0
  octetsSent : Nat := 0
  staleDrops : Nat := 0
  queueFull : Nat := 0
  ticketExhausted : Nat := 0
  flushed : Nat := 0
  deriving DecidableEq, Repr

/-- The ENGINE group, in member order (section 1.7.4). -/
structure EngineCounters where
  sessions : Nat := 0
  executed : Nat := 0
  overflows : Nat := 0
  repliesLost : Nat := 0
  deriving DecidableEq, Repr

/-- The Counter Store, the ROUTE groups aside, which stand in the slots (R166). -/
structure Counters where
  rx : PerLine RxCounters := ⟨{}, {}, {}⟩
  tx : PerLine TxCounters := ⟨{}, {}, {}⟩
  engine : EngineCounters := {}
  deriving DecidableEq, Repr

/-! ### The part -/

/-- A clock edge that reaches the part while no command waits: a rising edge of REFCLK (R180), or a falling edge of a
line's TCx (R179) with HLDx as for a fill pair's end, should a selection fall on it. The model's own input (log 22). -/
inductive Edge where
  | refclk
  | tc (line : Line) (hold : Bool) (further : List Bool)
  deriving DecidableEq, Repr

/-- The blocks that one millisecond tick reaches, each as an event of its own (R180). -/
inductive TickTaker where
  /-- the reception deadline of a line's receiver (R30) -/
  | deadline (line : Line)
  /-- a line's queue block, which ages its tickets (R104) -/
  | queue (line : Line)
  /-- the interval timer of the Notice Emitter (R172) -/
  | timer
  deriving DecidableEq, Repr

/-- All seven, in the order in which a tick reaches them where no other is listed (log 6). -/
def TickTaker.all : List TickTaker :=
  [.deadline .a, .deadline .b, .deadline .l, .queue .a, .queue .b, .queue .l, .timer]

/-- What the spec lets fall between two ticket claims of one dispatch, before its first, and between the freeing of a
session's request and the enqueue of its reply (R44, R97, R134, R174; log 21). -/
inductive GapEvent where
  /-- the block in transmission on a line ends, releasing its ticket (R114) -/
  | sent (line : Line)
  /-- the Notice Emitter takes the events that have reached it, and builds the notice that is due (R171, R174) -/
  | notice
  /-- the session whose walk outcome has left open ends and queues its reply (R97, R133); in the gap of a session's own end
  there is none -/
  | reply
  deriving DecidableEq, Repr

/-- What one FLUSH-ALL does at each resource it touches, where each is one event (R117, R163). -/
inductive FlushPart where
  /-- both queues of a line are flushed (R116) -/
  | queues (line : Line)
  /-- the receiver of a line is restarted (R32) -/
  | receiver (line : Line)
  /-- the management queue is discarded (R138) -/
  | management
  deriving DecidableEq, Repr

/-- All seven, in the order in which a FLUSH-ALL makes them where no other is listed (log 13). -/
def FlushPart.all : List FlushPart :=
  [.queues .a, .queues .b, .queues .l, .receiver .a, .receiver .b, .receiver .l, .management]

/-- The whole part, and the model's own inputs: the queue of commands not yet taken, the clock edges not yet come, and
the orders in which events fall that the spec lets fall in more than one. -/
structure State where
  /-- the level of the RESET input (R181) -/
  resetHigh : Bool := false
  /-- the REFCLK divide count, 0 to 3999 (R180) -/
  divideCount : Nat := 0
  /-- the blocks that the tick under way has not yet reached (R180; log 6) -/
  owed : List TickTaker := []
  /-- the parts that the FLUSH-ALL under way has still to make (R127, R163; log 13) -/
  unflushed : List FlushPart := []
  /-- the own station address (R162) -/
  self : Byte := 0xFE
  config : PerLine LineConfig := ⟨{}, {}, {}⟩
  rx : PerLine Receiver := ⟨{}, {}, {}⟩
  tx : PerLine Egress := ⟨{}, {}, {}⟩
  buf : Buffer := {}
  routes : RouteTable := {}
  engine : Engine := {}
  emitter : Emitter := {}
  count : Counters := {}
  /-- the commands waiting, first in first out; the model's own field -/
  pending : List Instr := []
  /-- the clock edges that come while no command waits, first in first out; a REFCLK edge where none is listed; the
  model's own field (log 22) -/
  edges : List Edge := []
  /-- for each tick to come, the blocks that it reaches at the step that issues it, in this order; the others take it at
  later steps, each in its own order with its other events; all seven where none is listed (R180; log 6) -/
  ticks : List (List TickTaker) := []
  /-- for each gap to come, before a ticket claim of a dispatch or before the enqueue of a reply, what falls in it;
  nothing where none is listed (R44, R97, R134, R174; log 21) -/
  gaps : List (List GapEvent) := []
  /-- for each FLUSH-ALL step to come, the parts made at it, in this order; the others are made at later steps; all seven
  where none is listed (R92, R163; log 13) -/
  flushes : List (List FlushPart) := []
  /-- for each notice to come, the number of occurrences that it waits for in the pending set before it is built; where
  none is listed it is built at the first event that makes it due (R171, R172; log 4) -/
  awaits : List Nat := []
  /-- for each event to come that the Notice Emitter takes, its place among those that have reached it; the first where
  none is listed (R171; log 4) -/
  arrivals : List Nat := []
  deriving DecidableEq, Repr

/-- The part right after a hardware reset, started: RESET low and the first fill pair begun (section 11.4, R181; the
choice of the started part is log 14). -/
def State.reset : State := {}

/-- Reasons the machine stops with a fault: none, since the spec gives no command of the part that stops it; what goes
wrong on a line, in a pool or in a request is counted, reported and gone on from (R5, R49, R141). Safe. -/
inductive Fault where
  deriving DecidableEq, Repr

/-- Reasons a command is refused. -/
inductive Refusal where
  /-- Raised by an arm of `exec` for a command that has no meaning yet. Safe: nothing is claimed of such a command. -/
  | notModelled (mnemonic : String)
  deriving DecidableEq, Repr

end Sys2Proof.Machine
end

