-- ==== Sys2Proof/Machine/Operands.lean ====
section
/-! DEFINITION. Operand forms: octets and bits, coded fields, and the records of management texts (chapter 1). -/

namespace Sys2Proof

/-- The line code of section 1.8. -/
def Line.code : Line → Byte
  | .a => 0
  | .b => 1
  | .l => 2

/-- Line codes 0x03 to 0xFF are invalid (section 1.8). -/
def Line.ofCode (o : Byte) : Option Line :=
  if o = 0 then some .a else if o = 1 then some .b else if o = 2 then some .l else none

end Sys2Proof

namespace Sys2Proof.Machine

/-! ### Per-line values and sets of lines (section 4) -/

def PerLine.get {α : Type} (p : PerLine α) : Line → α
  | .a => p.a
  | .b => p.b
  | .l => p.l

def PerLine.set {α : Type} (p : PerLine α) : Line → α → PerLine α
  | .a, v => { p with a := v }
  | .b, v => { p with b := v }
  | .l, v => { p with l := v }

def PerLine.modify {α : Type} (p : PerLine α) (x : Line) (f : α → α) : PerLine α := p.set x (f (p.get x))

def PerLine.map {α β : Type} (p : PerLine α) (f : α → β) : PerLine β := ⟨f p.a, f p.b, f p.l⟩

def LineSet.single (x : Line) : LineSet := ⟨x = .a, x = .b, x = .l⟩

def LineSet.has (e : LineSet) : Line → Bool
  | .a => e.a
  | .b => e.b
  | .l => e.l

/-- The members in the order A, B, L (R11, R94). -/
def LineSet.members (e : LineSet) : List Line := [Line.a, Line.b, Line.l].filter e.has

/-- The egress-set value: A 1, B 2, L 4 (section 1.8). -/
def LineSet.code (e : LineSet) : Byte :=
  (if e.a then 1 else 0) + (if e.b then 2 else 0) + (if e.l then 4 else 0)

/-- Egress-set values 1 to 7 name a set; 0 and 8 to 255 are invalid in a FORWARD body (section 1.8). -/
def LineSet.ofCode (o : Byte) : Option LineSet :=
  if 1 ≤ o.toNat ∧ o.toNat ≤ 7 then some ⟨o.getLsbD 0, o.getLsbD 1, o.getLsbD 2⟩ else none

def QClass.code : QClass → Byte
  | .normal => 0
  | .urgent => 1

/-- Class 0x00 NORMAL, 0x01 URGENT (section 1.7.1). -/
def QClass.ofCode (o : Byte) : Option QClass :=
  if o = 0 then some .normal else if o = 1 then some .urgent else none

/-- A flag octet: 0 no, 1 yes (section 1.7). -/
def flagOf (o : Byte) : Option Bool := if o = 0 then some false else if o = 1 then some true else none

def flagCode (b : Bool) : Byte := if b then 1 else 0

/-- Receiver state codes (section 1.8). -/
def RxState.code : RxState → Byte
  | .hunt => 0
  | .confirm => 1
  | .gap => 2
  | .gapSyn => 3
  | .header => 4
  | .body => 5
  | .check => 6

/-! ### Octets -/

/-- The high octet of a 16-bit value (section 4: high octet first). -/
def hiOctet (n : Nat) : Byte := BitVec.ofNat 8 (n / 256)

/-- The low octet of a value. -/
def loOctet (n : Nat) : Byte := BitVec.ofNat 8 n

def octets2 (n : Nat) : List Byte := [hiOctet n, loOctet n]

/-- A counter value in result data: 4 octets, high octet first (section 1.7). -/
def octets4 (n : Nat) : List Byte :=
  [BitVec.ofNat 8 (n / 16777216), BitVec.ofNat 8 (n / 65536), hiOctet n, loOctet n]

/-- Two octets read high octet first. -/
def wordOf (hi lo : Byte) : Nat := hi.toNat * 256 + lo.toNat

/-- The bits of an octet in line order, least significant first (section 4). -/
def octetBits (o : Byte) : List Bool :=
  [o.getLsbD 0, o.getLsbD 1, o.getLsbD 2, o.getLsbD 3, o.getLsbD 4, o.getLsbD 5, o.getLsbD 6, o.getLsbD 7]

/-- The octet that bits in line order make, the earliest being the least significant (R14). -/
def octetOf : List Bool → Byte
  | [] => 0
  | b :: bs => octetOf bs <<< 1 ||| (if b then 1 else 0)

/-- The bit history after one more bit: the last eight (R12). -/
def pushBit (h : List Bool) (b : Bool) : List Bool := (h ++ [b]).drop ((h ++ [b]).length - 8)

/-- The cell count of a block of text length `len` (R6). -/
def cellCount (len : Nat) : Nat := (len + 6 + 63) / 64

/-! ### Line configuration records (section 1.7.3) -/

/-- The checks of R143 on the fields of a record, the line code aside. -/
def LineConfig.legal (c : LineConfig) : Bool :=
  decide (c.syn1 ≠ Config.blk ∧ c.syn1 ≠ c.syn2 ∧ (1 ≤ c.gapPairs ∧ c.gapPairs ≤ 15) ∧ c.deadline ≤ 1000 ∧
    c.ageLimit ≤ 30000 ∧ (17 ≤ c.urgentLimit ∧ c.urgentLimit ≤ 494) ∧ (17 ≤ c.normalLimit ∧ c.normalLimit ≤ 494))

/-- The twelve octets of a record as fields; none where management permitted is neither 0 nor 1. -/
def LineConfig.ofOctets : List Byte → Option LineConfig
  | [s1, s2, g, d1, d0, a1, a0, u1, u0, n1, n0, p] =>
    (flagOf p).map fun permitted =>
      { syn1 := s1, syn2 := s2, gapPairs := g.toNat, deadline := wordOf d1 d0, ageLimit := wordOf a1 a0,
        urgentLimit := wordOf u1 u0, normalLimit := wordOf n1 n0, permitted }
  | _ => none

/-- The twelve octets a LINE-GET reports (R147). -/
def LineConfig.octets (c : LineConfig) : List Byte :=
  [c.syn1, c.syn2, loOctet c.gapPairs] ++ octets2 c.deadline ++ octets2 c.ageLimit ++ octets2 c.urgentLimit ++
    octets2 c.normalLimit ++ [flagCode c.permitted]

/-- The depth limit of a class (R95). -/
def LineConfig.limit (c : LineConfig) : QClass → Nat
  | .urgent => c.urgentLimit
  | .normal => c.normalLimit

/-! ### Route bodies (sections 1.7.1 and 1.7.2, R151) -/

/-- A default route body of 3 octets, valid in exactly the combinations of R151. -/
def DefaultRoute.ofOctets : List Byte → Option DefaultRoute
  | [action, egress, cls] =>
    if action = 0 then
      match LineSet.ofCode egress, QClass.ofCode cls with
      | some e, some c => some (.forward e c)
      | _, _ => none
    else if action = 1 ∧ egress = 0 ∧ cls = 0 then some .discard
    else none
  | _ => none

/-- A route body of 6 octets with its window, valid in exactly the combinations of R151. -/
def Route.ofOctets : List Byte → Option (Route × Nat)
  | [action, egress, cls, present, value, window] =>
    if action = 0 then
      match LineSet.ofCode egress, QClass.ofCode cls, flagOf present with
      | some e, some c, some true => if window.toNat ≤ 64 then some (.forward e c (some value), window.toNat) else none
      | some e, some c, some false =>
        if value = 0 ∧ window.toNat ≤ 64 then some (.forward e c none, window.toNat) else none
      | _, _, _ => none
    else if action = 1 ∧ egress = 0 ∧ cls = 0 ∧ present = 0 ∧ value = 0 ∧ window = 0 then some (.discard, 0)
    else none
  | _ => none

/-- The route body of ROUTE-READ (R77): 0 for what a slot does not have. -/
def Route.octets (r : Route) (seqCheck : Option SeqCheck) : List Byte :=
  (match r with
    | .forward e c (some v) => [0, e.code, c.code, 1, v]
    | .forward e c none => [0, e.code, c.code, 0, 0]
    | .discard => [1, 0, 0, 0, 0]) ++
  [match seqCheck with
    | some k => loOctet k.window
    | none => 0]

/-- A sequence check newly given by a body's window: none for 0, else E 0 and not primed (R73, R75). -/
def SeqCheck.given (window : Nat) : Option SeqCheck := if window = 0 then none else some ⟨window, 0, false⟩

/-! ### Request and result records (sections 1.6 and 1.7.4) -/

/-- Result statuses (section 1.8). -/
inductive Status where
  | ok | unknownRequest | badLength | badParameter | keyExists | tableFull | noSuchSlot | keyMismatch | lockout
  | malformed | skipped | truncated
  deriving DecidableEq, Repr

def Status.code : Status → Byte
  | .ok => 0x00
  | .unknownRequest => 0x01
  | .badLength => 0x02
  | .badParameter => 0x03
  | .keyExists => 0x04
  | .tableFull => 0x05
  | .noSuchSlot => 0x06
  | .keyMismatch => 0x07
  | .lockout => 0x08
  | .malformed => 0x09
  | .skipped => 0x0A
  | .truncated => 0x0B

/-- Requests executed counts the records given a status from OK to LOCKOUT (R139). -/
def Status.executed : Status → Bool
  | .malformed | .skipped | .truncated => false
  | _ => true

/-- PLEN and the largest result record of a request code (section 1.7.4); none for a code outside the table. -/
def requestTable (code : Byte) : Option (Nat × Nat) :=
  [(0, 14), (13, 4), (1, 18), (1, 4), (2, 6), (4, 4), (8, 5), (10, 4), (3, 5), (1, 16), (2, 5), (3, 58), (5, 4),
    (1, 4), (0, 4), (0, 4)][code.toNat - 1]?.filter fun _ => code ≠ 0

/-- The head of a request record (section 1.6.1). -/
structure RecordHead where
  code : Byte
  tag : Byte
  plen : Nat
  deriving DecidableEq, Repr

/-- What becomes of the record at the walk position (R128, steps 1 to 7). -/
inductive Fate where
  | truncated
  | malformed (code tag : Byte)
  | skipped (head : RecordHead)
  | unknown (head : RecordHead)
  | badLength (head : RecordHead)
  | request (head : RecordHead) (params : List Byte)
  deriving DecidableEq, Repr

/-- A result record: CODE, TAG, STATUS, DLEN and data (section 1.6.2). -/
def resultRecord (code tag : Byte) (status : Status) (data : List Byte) : List Byte :=
  [code, tag, status.code, loOctet data.length] ++ data

/-- The data of IDENTIFY (R142). -/
def identifyData : List Byte := [0xC7, 0x07, 0x30, 1, 3, 96, 0x02, 0x00, 128, 192]

/-! ### Blocks and notices -/

/-- The six header octets (section 1.2.1). -/
def headerOctets (dst src kind seq : Byte) (len : Nat) : List Byte := [dst, src, kind, seq, hiOctet len, loOctet len]

/-- An event record of a notice: EVENT, SUBJECT, COUNT (section 1.6.3). -/
def eventRecord (event subject : Byte) (count : Nat) : List Byte := [event, subject] ++ octets2 count

/-- The event records of the pending set, in ascending order of EVENT and then of SUBJECT (R10, R173). -/
def PendingSet.records (p : PendingSet) : List (List Byte) :=
  let perLine (event : Byte) (x : PerLine (Option Nat)) : List (List Byte) :=
    [Line.a, Line.b, Line.l].filterMap fun y => (x.get y).map (eventRecord event y.code)
  perLine 0x01 p.syncLost ++ perLine 0x02 p.syncGained ++
    (p.bufferLow.map (eventRecord 0x03 0)).toList ++
    (p.bufferRecovered.map (eventRecord 0x04 0)).toList ++
    (p.routeFreed.map fun r => eventRecord 0x05 (loOctet r.subject) r.count).toList ++
    (p.mgmtOverflow.map fun r => eventRecord 0x06 r.subject.code r.count).toList

/-- The member values of counter groups, in member order (section 1.7.4). -/
def RxCounters.members (c : RxCounters) : List Nat :=
  [c.goodBlocks, c.goodOctets, c.checkFailures, c.headerFaults, c.syncLosses, c.syncAcquisitions, c.deadlineAbandons,
    c.descExhausted, c.bufferExhausted, c.mgmtRefused, c.strayToSelf, c.defaultHits, c.retiredCompletions]

def TxCounters.members (c : TxCounters) : List Nat :=
  [c.blocksSent, c.octetsSent, c.staleDrops, c.queueFull, c.ticketExhausted, c.flushed]

def EngineCounters.members (c : EngineCounters) : List Nat := [c.sessions, c.executed, c.overflows, c.repliesLost]

end Sys2Proof.Machine
end

