-- ==== Sys2Proof/Machine/Flags.lean ====
section
/-! DEFINITION. Checks, saturating counts and the flags of the part: the CRC (R4), counters (R166), ages and COUNTs
(R104, R170), synchronism (R13), the sequence check (R68). -/

namespace Sys2Proof.Machine

/-! ### The check (R4) -/

/-- One bit enters the check register: the bit is combined with the highest bit, the register moves up by one, and if
the combined bit was 1 the generator 0x1021 is combined in. -/
def crcBit (reg : Word16) (bit : Bool) : Word16 :=
  if (reg.getLsbD 15).xor bit then (reg <<< 1) ^^^ 0x1021 else reg <<< 1

/-- One covered octet enters the check, most significant bit first. -/
def crcOctet (reg : Word16) (o : Byte) : Word16 := (octetBits o).reverse.foldl crcBit reg

/-- The check of a list of octets, preset 0xFFFF. -/
def crcOf (os : List Byte) : Word16 := os.foldl crcOctet 0xFFFF

/-- The check octets C1 (high) and C2 (low). -/
def checkOctets (reg : Word16) : List Byte := octets2 reg.toNat

/-! ### Saturating counts -/

/-- A 32-bit counter raised by `n` stays at 4,294,967,295 (R166). -/
def satAdd (c n : Nat) : Nat := min (c + n) Config.counterMax

/-- A ticket's age raised by a tick stays at 65535 (R104). -/
def ageOnce (age : Nat) : Nat := min (age + 1) Config.countMax

/-- An event record opened with COUNT 1 or raised, staying at 65535 (R170). -/
def bumpCount : Option Nat → Option Nat
  | none => some 1
  | some n => some (min (n + 1) Config.countMax)

/-- A record that carries the subject of its latest occurrence (R170). -/
def bumpLatest {α : Type} (subject : α) : Option (Latest α) → Option (Latest α)
  | none => some ⟨subject, 1⟩
  | some r => some ⟨subject, min (r.count + 1) Config.countMax⟩

/-- An event recorded in the pending set (R170). -/
def PendingSet.record (p : PendingSet) : Event → PendingSet
  | .syncLost x => { p with syncLost := p.syncLost.modify x bumpCount }
  | .syncGained x => { p with syncGained := p.syncGained.modify x bumpCount }
  | .bufferLow => { p with bufferLow := bumpCount p.bufferLow }
  | .bufferRecovered => { p with bufferRecovered := bumpCount p.bufferRecovered }
  | .routeFreed n => { p with routeFreed := bumpLatest n p.routeFreed }
  | .mgmtOverflow x => { p with mgmtOverflow := bumpLatest x p.mgmtOverflow }

/-- Whether the pending set holds nothing (R172). -/
def PendingSet.isEmpty (p : PendingSet) : Bool := p = {}

/-! ### Synchronism -/

/-- INSx is high in these states (R13). -/
def RxState.inSync : RxState → Bool
  | .hunt | .confirm => false
  | .gap | .gapSyn | .header | .body | .check => true

/-- The receiver enters a state; INSx changes at the same event (R13). -/
def Receiver.enter (r : Receiver) (st : RxState) : Receiver := { r with state := st, ins := st.inSync }

/-! ### The sequence check (R68) -/

/-- The Route Table's answer to a completion report (section 4.6). -/
inductive Verdict where
  | accepted | duplicate | retired
  deriving DecidableEq, Repr

/-- The block counted as accepted: blocks by 1, octets by LEN + 6 (R67). -/
def Entry.accept (e : Entry) (len : Nat) : Entry :=
  { e with blocks := satAdd e.blocks 1, octets := satAdd e.octets (len + 6) }

/-- The evaluation of a completion report against an ACTIVE slot's entry (R67, R68). -/
def Entry.evaluate (e : Entry) (seq : Byte) (len : Nat) : Verdict × Entry :=
  match e.seqCheck with
  | none => (.accepted, e.accept len)
  | some k =>
    let d := (seq - k.expected).toNat
    if k.primed = false then (.accepted, { e.accept len with seqCheck := some ⟨k.window, seq + 1, true⟩ })
    else if d = 0 then (.accepted, { e.accept len with seqCheck := some ⟨k.window, k.expected + 1, true⟩ })
    else if 256 - d ≤ k.window then (.duplicate, { e with duplicates := satAdd e.duplicates 1 })
    else
      (.accepted, { e.accept len with gaps := satAdd e.gaps 1, seqCheck := some ⟨k.window, seq + 1, true⟩ })

end Sys2Proof.Machine
end

