-- ==== Sys2Proof/Machine/Ops.lean ====
section
/-! DEFINITION. The named operations shared by the commands: cell contents, the pools of the Buffer Manager (chapter 3),
events (R170), and the release of binds (R65, R66). An operation that raises events answers them with its result. -/

namespace Sys2Proof.Machine

/-! ### Cell contents -/

/-- What an octet of a cell reads as that nothing has written: DESIGN CHOICE (log 10); no operation of the part reads
one (R37). -/
def Memory.unlisted : Byte := 0

/-- The canonical form: addresses inside the buffer, strictly rising, no octet listed that reads as unlisted. -/
def Memory.wf (m : Memory) : Bool :=
  decide (m.Pairwise fun x y => x.1 < y.1) && m.all fun x => decide (x.1 < Config.bufferSize ∧ x.2 ≠ Memory.unlisted)

/-- The octet at an address. -/
def Memory.read : Memory → Nat → Byte
  | [], _ => Memory.unlisted
  | (b, w) :: m, a => if a = b then w else Memory.read m a

/-- The insertion of an octet in the canonical order; the value of an unlisted octet removes the entry. -/
def Memory.insert : Memory → Nat → Byte → Memory
  | [], a, v => if v = Memory.unlisted then [] else [(a, v)]
  | (b, w) :: m, a, v =>
    if a < b then (if v = Memory.unlisted then (b, w) :: m else (a, v) :: (b, w) :: m)
    else if a = b then (if v = Memory.unlisted then m else (a, v) :: m)
    else (b, w) :: Memory.insert m a v

/-- An octet written at an address of the buffer; there are 512 cells of 64 octets and no others (R36). -/
def Memory.write (m : Memory) (a : Nat) (v : Byte) : Memory :=
  if a < Config.bufferSize then m.insert a v else m

/-- The address of octet `k` of cell `c` (log 15). -/
def cellAddress (c k : Nat) : Nat := Config.cellSize * c + k

/-! ### Descriptors and tickets -/

def Buffer.desc (b : Buffer) (d : Nat) : Descriptor := b.descs.getD d {}

def Buffer.modDesc (b : Buffer) (d : Nat) (f : Descriptor → Descriptor) : Buffer :=
  { b with descs := b.descs.modify d f }

def Buffer.ticket (b : Buffer) (t : Nat) : Ticket := b.tickets.getD t ⟨.free, 0, .a, .normal, 0⟩

def Buffer.modTicket (b : Buffer) (t : Nat) (f : Ticket → Ticket) : Buffer :=
  { b with tickets := b.tickets.modify t f }

/-- Stored octet `k` of a descriptor's block, counting from 0 at the first header octet: the chain's cells in order,
64 octets each (R6, R38). -/
def Buffer.storedOctet (b : Buffer) (d k : Nat) : Byte :=
  b.mem.read (cellAddress ((b.desc d).chain.getD (k / Config.cellSize) 0) (k % Config.cellSize))

/-- The text of a stored block (R111): stored octet 7 to stored octet 6 + LEN, counting from 1. -/
def Buffer.text (b : Buffer) (d : Nat) : List Byte :=
  (List.range (b.desc d).len).map fun i => b.storedOctet d (6 + i)

/-! ### Levels and thresholds (R51 to R54) -/

/-- The low-threshold flag after a claim or release that found `before` general cells free (R52, R53). -/
def Buffer.threshold (b : Buffer) (before : Nat) : Buffer × List Event :=
  if b.lowArmed = true ∧ Config.lowLevel ≤ before ∧ b.freeCells.length < Config.lowLevel then
    ({ b with lowArmed := false }, [.bufferLow])
  else if b.lowArmed = false ∧ before ≤ Config.highLevel ∧ Config.highLevel < b.freeCells.length then
    ({ b with lowArmed := true }, [.bufferRecovered])
  else (b, [])

/-- General cells in use (R54). -/
def Buffer.cellsInUse (b : Buffer) : Nat := Config.generalCells - b.freeCells.length

/-- General descriptors in use (R39, R54). -/
def Buffer.descsInUse (b : Buffer) : Nat := Config.generalDescs - b.freeDescs.length

/-! ### Claims -/

/-- The head general cell leaves its free list, the high-water mark and the thresholds follow (R37, R52, R54); the
claimant has found the list non-empty. -/
def Buffer.claimCell (b : Buffer) : Buffer × List Event :=
  let b1 := { b with freeCells := b.freeCells.tail }
  ({ b1 with hwCells := max b1.hwCells b1.cellsInUse }).threshold b.freeCells.length

/-- The head general descriptor becomes FILLING for a receiver (R20, R39, R40, R54). Its chain, ticket count and bound
slot were left empty, 0 and none when it was freed (R40). -/
def Buffer.claimDesc (b : Buffer) (x : Line) : Buffer :=
  let b1 := { b with freeDescs := b.freeDescs.tail }
  let b2 := { b1 with hwDescs := max b1.hwDescs b1.descsInUse }
  b2.modDesc (b.freeDescs.headD 0) fun v =>
    { v with state := .filling, ingress := some x, origin := .received, mark := false }

/-- A cell joins the tail of a descriptor's chain (R38). -/
def Buffer.appendCell (b : Buffer) (d c : Nat) : Buffer := b.modDesc d fun v => { v with chain := v.chain ++ [c] }

/-- A partition cell for the reply or the notice (R50). The list always holds one (R50); were it empty, nothing would
be claimed (log 16). -/
def Buffer.claimPart (b : Buffer) (d : Nat) : Buffer :=
  match b.freePart with
  | [] => b
  | c :: rest => ({ b with freePart := rest }).appendCell d c

/-- Stored octet `k` of the reply or notice written, its cell claimed when it falls in one not yet held (R132). -/
def Buffer.putOctet (b : Buffer) (d k : Nat) (o : Byte) : Buffer :=
  let b1 := if (b.desc d).chain.length ≤ k / Config.cellSize then b.claimPart d else b
  match (b1.desc d).chain[k / Config.cellSize]? with
  | some c => { b1 with mem := b1.mem.write (cellAddress c (k % Config.cellSize)) o }
  | none => b1

/-- Octets written one after another from stored octet `k` on. -/
def Buffer.putOctets (b : Buffer) (d : Nat) : Nat → List Byte → Buffer
  | _, [] => b
  | k, o :: os => Buffer.putOctets (b.putOctet d k o) d (k + 1) os

/-! ### Releases -/

/-- A descriptor freed: its whole chain goes in chain order to the tail of its part's free list, and a general
descriptor to the tail of its own (R40, R46, R47). Its other fields keep no meaning (R40); that they keep their values
until the next claim sets them is the model's choice (log 11). -/
def Buffer.freeDesc (b : Buffer) (d : Nat) : Buffer × List Event :=
  let chain := (b.desc d).chain
  let b1 := b.modDesc d fun v => { v with state := .free, chain := [], tickets := 0, bound := .none }
  if d < Config.generalDescs then
    ({ b1 with freeCells := b1.freeCells ++ chain, freeDescs := b1.freeDescs ++ [d] }).threshold b.freeCells.length
  else ({ b1 with freePart := b1.freePart ++ chain }, [])

/-! ### Tickets (R42 to R45) -/

/-- A ticket becomes WAITING for one copy: its fields are set, its age is 0 and its descriptor counts it (R43, R96). -/
def Buffer.setWaiting (b : Buffer) (t d : Nat) (x : Line) (c : QClass) : Buffer :=
  (b.modTicket t fun _ => ⟨.waiting, d, x, c, 0⟩).modDesc d fun v => { v with tickets := v.tickets + 1 }

/-- A general ticket claimed from the head of the list, its fields set from the claim (R44). -/
def Buffer.claimTicket (b : Buffer) (d : Nat) (x : Line) (c : QClass) : Buffer :=
  ({ b with freeTickets := b.freeTickets.tail }).modTicket (b.freeTickets.headD 0) fun v =>
    { v with desc := d, line := x, cls := c }

/-- A claimed ticket put back at the head of the list (R44). -/
def Buffer.withdrawTicket (b : Buffer) (t : Nat) : Buffer := { b with freeTickets := t :: b.freeTickets }

/-- A ticket becomes FREE, a general one at the tail of its list, and its descriptor counts one less (R45). That its other
fields keep their values until the next claim is the model's choice (log 11). -/
def Buffer.dropTicket (b : Buffer) (t : Nat) : Buffer :=
  let d := (b.ticket t).desc
  let b1 := (b.modTicket t fun v => { v with state := .free }).modDesc d fun v => { v with tickets := v.tickets - 1 }
  if t < Config.generalTickets then { b1 with freeTickets := b1.freeTickets ++ [t] } else b1

/-- The cell count of a ticket's block if the ticket is general, else 0 (R95, R103). -/
def Buffer.ticketCells (b : Buffer) (t : Nat) : Nat :=
  if t < Config.generalTickets then (b.desc (b.ticket t).desc).chain.length else 0

/-- One tick at the queue block of a line ages its WAITING tickets (R104). -/
def Buffer.ageTickets (b : Buffer) (x : Line) : Buffer :=
  { b with
    tickets := b.tickets.map fun v =>
      if v.state = .waiting ∧ v.line = x then { v with age := ageOnce v.age } else v }

/-! ### Route slots -/

def RouteTable.slot (r : RouteTable) (n : Nat) : Slot := r.slots.getD n .free

def RouteTable.setSlot (r : RouteTable) (n : Nat) (v : Slot) : RouteTable := { r with slots := r.slots.set n v }

/-- A bind to a slot released: the count falls by 1, and a RETIRING slot without binds is freed with ROUTE-FREED
(R65, R66). -/
def RouteTable.release (r : RouteTable) (n : Nat) : RouteTable × List Event :=
  match r.slot n with
  | .free => (r, [])
  | .active e => (r.setSlot n (.active { e with binds := e.binds - 1 }), [])
  | .retiring e =>
    if e.binds - 1 = 0 then (r.setSlot n .free, [.routeFreed n])
    else (r.setSlot n (.retiring { e with binds := e.binds - 1 }), [])

/-! ### The part -/

/-- Events reach the Notice Emitter, which takes them one at a time while enabled (R170, R171). -/
def Emitter.hear (m : Emitter) (es : List Event) : Emitter :=
  if m.enabled then { m with inbox := m.inbox ++ es } else m

def State.raise (s : State) (e : Event) : State := { s with emitter := s.emitter.hear [e] }

/-- The Buffer Manager's new state, and the threshold events it raises. -/
def State.withBuf (s : State) (r : Buffer × List Event) : State :=
  { s with buf := r.1, emitter := s.emitter.hear r.2 }

/-- The Route Table's new state, and the ROUTE-FREED events it raises. -/
def State.withRoutes (s : State) (r : RouteTable × List Event) : State :=
  { s with routes := r.1, emitter := s.emitter.hear r.2 }

def State.modRx (s : State) (x : Line) (f : Receiver → Receiver) : State := { s with rx := s.rx.modify x f }

def State.modTx (s : State) (x : Line) (f : Egress → Egress) : State := { s with tx := s.tx.modify x f }

def State.modDesc (s : State) (d : Nat) (f : Descriptor → Descriptor) : State := { s with buf := s.buf.modDesc d f }

def State.countRx (s : State) (x : Line) (f : RxCounters → RxCounters) : State :=
  { s with count := { s.count with rx := s.count.rx.modify x f } }

def State.countTx (s : State) (x : Line) (f : TxCounters → TxCounters) : State :=
  { s with count := { s.count with tx := s.count.tx.modify x f } }

def State.countEngine (s : State) (f : EngineCounters → EngineCounters) : State :=
  { s with count := { s.count with engine := f s.count.engine } }

/-- The bind a descriptor holds is released; its bound slot becomes none (R65). -/
def State.releaseBind (s : State) (d : Nat) : State :=
  let s1 := s.modDesc d fun v => { v with bound := .none }
  match (s.buf.desc d).bound with
  | .slot n => s1.withRoutes (s1.routes.release n)
  | .default _ | .none => s1

/-- A descriptor freed by the party that holds it (R47). -/
def State.freeDesc (s : State) (d : Nat) : State := s.withBuf (s.buf.freeDesc d)

/-- A ticket released with its cause (R45); the release of a QUEUED descriptor's last ticket frees the descriptor, and
a reply so freed by a stale drop or a flush is a lost reply (R46, R135). -/
def State.releaseTicket (s : State) (t : Nat) (cause : Cause) : State :=
  let d := (s.buf.ticket t).desc
  let s1 := { s with buf := s.buf.dropTicket t }
  let v := s1.buf.desc d
  if v.state = .queued ∧ v.tickets = 0 then
    let s2 := s1.freeDesc d
    if v.origin = .reply ∧ cause ≠ .sent then
      s2.countEngine fun c => { c with repliesLost := satAdd c.repliesLost 1 }
    else s2
  else s1

/-! ### TDx (R179) -/

/-- The octets of a unit on TDx, in order (R106, R111). -/
def LineOut.octets : LineOut → List Byte
  | .heldHigh => []
  | .pair syn1 syn2 => [syn1, syn2]
  | .block os => os

/-- Bit `k` of a unit, each octet least significant bit first (R179); high where the line is held high (R181). -/
def LineOut.bit : LineOut → Nat → Bool
  | .heldHigh, _ => true
  | .pair syn1 syn2, k => ([syn1, syn2].getD (k / 8) 0).getLsbD (k % 8)
  | .block os, k => (os.getD (k / 8) 0).getLsbD (k % 8)

/-- The unit under way has been sent to its last bit, which TDx holds until the next unit's first (R179). -/
def Egress.unitDone (e : Egress) : Egress := { e with place := 0, tdx := e.out.bit (8 * e.out.octets.length - 1) }

/-- A ticket that is WAITING joins the tail of its queue (R101). -/
def Egress.enqueue (e : Egress) (c : QClass) (t : Nat) : Egress :=
  match c with
  | .urgent => { e with urgent := e.urgent ++ [t] }
  | .normal => { e with normal := e.normal ++ [t] }

/-- The queue of a class (R101). -/
def Egress.queue (e : Egress) : QClass → List Nat
  | .urgent => e.urgent
  | .normal => e.normal

/-- A queue's occupancy: the cell counts of its general tickets, added (R103). -/
def State.occupancy (s : State) (x : Line) (c : QClass) : Nat :=
  (((s.tx.get x).queue c).map s.buf.ticketCells).sum

/-- The reply or notice ticket takes its place at the tail of the URGENT queue of a line: WAITING, age 0, its descriptor
QUEUED with ticket count 1, no depth check (R42, R99, R133, R173). -/
def State.enqueueOwn (s : State) (t d : Nat) (x : Line) : State :=
  { (s.modTx x fun e => e.enqueue .urgent t) with
    buf := ((s.buf.modTicket t fun _ => ⟨.waiting, d, x, .urgent, 0⟩).modDesc d fun v =>
      { v with state := .queued, tickets := 1 }) }

end Sys2Proof.Machine
end

