-- ==== Sys2Proof/Machine/EmitterOps.lean ====
section
/-! DEFINITION. The Notice Emitter's taking of events, its building of notices and its interval timer (chapter 9). -/

namespace Sys2Proof.Machine

/-! ### Building a notice (R172, R173) -/

/-- The four conditions of R172: enabled, a non-empty pending set, the timer expired, the notice descriptor FREE. -/
def State.buildable (s : State) : Bool :=
  s.emitter.enabled && !s.emitter.pending.isEmpty && s.emitter.timer = .expired &&
    (s.buf.desc Config.noticeDesc).state = .free

/-- The occurrences that the pending set holds. -/
def PendingSet.total (p : PendingSet) : Nat :=
  let lines := fun (n : PerLine (Option Nat)) => n.a.getD 0 + n.b.getD 0 + n.l.getD 0
  lines p.syncLost + lines p.syncGained + p.bufferLow.getD 0 + p.bufferRecovered.getD 0 +
    (p.routeFreed.map (·.count)).getD 0 + (p.mgmtOverflow.map (·.count)).getD 0

/-- A notice is due once the four conditions hold, and not before the occurrences it waits for are recorded: the events
that R171 lets come together with the build and be taken before it (log 4). An occurrence whose record stands at COUNT
65535 raises no total, so no wait ends at it: that the build falls before it, or behind an event that is recorded later, is
the model's choice (DESIGN CHOICE, log 23). -/
def State.buildDue (s : State) : Bool := s.buildable && decide (s.awaits.headD 0 ≤ s.emitter.pending.total)

/-- The notice descriptor taken for the notice line, with its one cell (R173). -/
def Buffer.takeNotice (b : Buffer) (x : Line) : Buffer :=
  (b.modDesc Config.noticeDesc fun v =>
    { v with
      state := .building, origin := .notice, ingress := none, mark := false, cls := .urgent,
      egress := LineSet.single x }).claimPart Config.noticeDesc

/-- The notice's header and text written into its cell and its header into its descriptor (R173). -/
def Buffer.fillNotice (b : Buffer) (dst src seq : Byte) (text : List Byte) : Buffer :=
  (b.putOctets Config.noticeDesc 0 (headerOctets dst src Config.kindNotice seq text.length ++ text)).modDesc
    Config.noticeDesc fun v =>
      { v with dst, src, kind := Config.kindNotice, seq, len := text.length, txDst := dst }

/-- A notice built from the pending set and queued on the notice line (R173); the next notice has its own wait. -/
def State.buildNotice (s : State) : State :=
  let m := s.emitter
  let b := (s.buf.takeNotice m.line).fillNotice m.station s.self m.seq m.pending.records.flatten
  { (({ s with buf := b }).enqueueOwn Config.noticeTicket Config.noticeDesc m.line) with
    emitter := { m with pending := {}, seq := m.seq + 1, timer := .running m.interval }
    awaits := s.awaits.tail }

def State.buildIfDue (s : State) : State := if s.buildDue then s.buildNotice else s

/-! ### Taking events (R170, R171) -/

/-- The place of the event that the emitter takes next among those that have reached it (R171; log 4). -/
def State.nextArrival (s : State) : Nat :=
  if s.arrivals.headD 0 < s.emitter.inbox.length then s.arrivals.headD 0 else 0

/-- The emitter takes one event, which is recorded (R170). -/
def State.takeEvent (s : State) : State :=
  match s.emitter.inbox[s.nextArrival]? with
  | none => s
  | some e =>
    { s with
      emitter :=
        { s.emitter with pending := s.emitter.pending.record e, inbox := s.emitter.inbox.eraseIdx s.nextArrival }
      arrivals := s.arrivals.tail }

/-- `n` events are taken, a notice that is due being built before each of them and after the last. A notice that becomes
due in one step with the raising of an event, such as by a flush that frees descriptor 127 and raises BUFFER-RECOVERED, is
so built before that event is recorded, wherever in the step it was raised; R171 gives both orders, and that this one is
taken where `awaits` lists no other is the model's choice (DESIGN CHOICE, log 4). -/
def State.takeEvents : Nat → State → State
  | 0, s => s.buildIfDue
  | n + 1, s => State.takeEvents n s.buildIfDue.takeEvent

/-- The emitter takes every event that has reached it, one at a time, and builds each notice at the first event that makes
it due (R170 to R172). -/
def State.drain (s : State) : State := State.takeEvents s.emitter.inbox.length s

/-! ### The interval timer (R172) -/

/-- The expiry of the interval timer, where a tick has brought it to 0 (R172). -/
def State.expireInterval (s : State) : State :=
  if s.emitter.timer = .running 0 then { s with emitter := { s.emitter with timer := .expired } } else s

end Sys2Proof.Machine
end

