-- ==== Sys2Proof/Machine/TransmitterOps.lean ====
section
/-! DEFINITION. The line transmitters, the queues' response to flushes (chapter 6), and what falls in the gap of a session's
end. -/

namespace Sys2Proof.Machine

/-- The octets of a block as sent on TDx: BLK, header, text and a fresh check (R2, R111). -/
def Buffer.lineOctets (b : Buffer) (d : Nat) : List Byte :=
  let v := b.desc d
  let covered := headerOctets v.txDst v.src v.kind v.seq v.len ++ b.text d
  Config.blk :: covered ++ checkOctets (crcOf covered)

/-- A fill pair begun with the sync pair configured at this event (R106). -/
def State.beginPair (s : State) (x : Line) : State :=
  s.modTx x fun e => { e with out := .pair (s.config.get x).syn1 (s.config.get x).syn2 }

/-- A selection that takes nothing: FILL, and the next fill pair begins (R107, R108). -/
def State.toFill (s : State) (x : Line) : State := (s.modTx x fun e => { e with state := .fill }).beginPair x

/-- The queue a selection with HLDx negated chooses, and its head (R108). -/
def Egress.choose (e : Egress) : Option (QClass × Nat) :=
  match e.urgent, e.normal with
  | [], [] => none
  | u :: _, [] => some (.urgent, u)
  | [], n :: _ => some (.normal, n)
  | u :: _, n :: _ => if e.run < Config.runLimit then some (.urgent, u) else some (.normal, n)

/-- A selection that finds NORMAL empty sets the run count to 0 before it takes anything (R108). -/
def Egress.clearRun (e : Egress) : Egress := if e.normal = [] then { e with run := 0 } else e

/-- The head of a queue leaves it (R101, R109). -/
def Egress.dequeue (e : Egress) : QClass → Egress
  | .urgent => { e with urgent := e.urgent.tail }
  | .normal => { e with normal := e.normal.tail }

/-- The run count after a block of a class is taken for sending (R108). -/
def runAfter (run : Nat) : QClass → Nat
  | .urgent => run + 1
  | .normal => 0

/-- A ticket whose age exceeds the line's age limit is stale; with the limit off none is (R105). -/
def State.stale (s : State) (x : Line) (t : Nat) : Bool :=
  (s.config.get x).ageLimit ≠ 0 && (s.config.get x).ageLimit < (s.buf.ticket t).age

/-- A ticket taken for sending: SENDING, in transmission, and its block is what TDx carries next (R110, R111). -/
def State.startSending (s : State) (x : Line) (c : QClass) (t : Nat) : State :=
  ({ s with buf := s.buf.modTicket t fun v => { v with state := .sending } }).modTx x fun e =>
    { e with
      state := .sending, ticket := some t, run := runAfter e.run c,
      out := .block (s.buf.lineOctets (s.buf.ticket t).desc) }

/-- A stale ticket discarded at selection (R109). -/
def State.dropStale (s : State) (x : Line) (t : Nat) : State :=
  (s.releaseTicket t .staleDrop).countTx x fun c => { c with staleDrops := satAdd c.staleDrops 1 }

/-- The sample of HLDx at a further selection, and the samples left: the last level stands for the rest (log 8). -/
def nextHold (hold : Bool) : List Bool → Bool × List Bool
  | [] => (hold, [])
  | h :: hs => (h, hs)

/-- A selection and the further selections its stale discards bring (R107 to R109). The bound is never met: each
further selection follows the discard of one ticket. -/
def State.selectLoop (x : Line) : Nat → Bool → List Bool → State → State
  | 0, _, _, s => s.toFill x
  | n + 1, hold, further, s =>
    if hold then s.toFill x
    else
      let s1 := s.modTx x Egress.clearRun
      match (s1.tx.get x).choose with
      | none => s1.toFill x
      | some (c, t) =>
        let s2 := s1.modTx x fun e => e.dequeue c
        if s2.stale x t then
          State.selectLoop x n (nextHold hold further).1 (nextHold hold further).2 (s2.dropStale x t)
        else s2.startSending x c t

/-- A selection event of a line's transmitter (R107). -/
def State.select (s : State) (x : Line) (hold : Bool) (further : List Bool) : State :=
  State.selectLoop x ((s.tx.get x).urgent.length + (s.tx.get x).normal.length + 1) hold further s

/-- The end of a fill pair in FILL (R107). -/
def State.endFillPair (s : State) (x : Line) (hold : Bool) (further : List Bool) : State :=
  match (s.tx.get x).state with
  | .fill => (s.modTx x Egress.unitDone).select x hold further
  | .gap | .sending => s

/-- The end of a gap pair in GAP (R115). -/
def State.endGapPair (s : State) (x : Line) (hold : Bool) (further : List Bool) : State :=
  match (s.tx.get x).state with
  | .gap =>
    let s1 := s.modTx x fun e => { e.unitDone with gapLeft := e.gapLeft - 1 }
    if (s1.tx.get x).gapLeft = 0 then s1.select x hold further else s1.beginPair x
  | .fill | .sending => s

/-- The end of the block in transmission (R114). -/
def State.endBlockSent (s : State) (x : Line) : State :=
  match (s.tx.get x).state, (s.tx.get x).ticket with
  | .sending, some t =>
    let len := (s.buf.desc (s.buf.ticket t).desc).len
    let s1 := (s.releaseTicket t .sent).countTx x fun c =>
      { c with blocksSent := satAdd c.blocksSent 1, octetsSent := satAdd c.octetsSent (len + 6) }
    (s1.modTx x fun e =>
      { e.unitDone with state := .gap, ticket := none, gapLeft := (s.config.get x).gapPairs }).beginPair x
  | _, _ => s

/-! ### The gap of a session's end (R134, R174; log 21) -/

/-- What falls between the freeing of a session's request and the enqueue of its reply: no further session's end. That no
tick, selection, flush or copy comes, at one queue block, between a notice enqueued here and the reply behind it is the
model's choice (DESIGN CHOICE, log 24). -/
def State.takeBeforeReply (s : State) : GapEvent → State
  | .sent y => s.endBlockSent y
  | .notice => s.drain
  | .reply => s

/-- The gap before the enqueue of a reply, and what falls in it. -/
def State.passReplyGap (s : State) : State :=
  (s.gaps.headD []).foldl State.takeBeforeReply { s with gaps := s.gaps.tail }

/-! ### Units on TDx and flushes -/

/-- The end of the unit under way, as the transmitter's state gives it (section 6.3). -/
def State.endUnit (s : State) (x : Line) (hold : Bool) (further : List Bool) : State :=
  match (s.tx.get x).state with
  | .fill => s.endFillPair x hold further
  | .gap => s.endGapPair x hold further
  | .sending => s.endBlockSent x

/-- One falling edge of TCx (R179): TDx presents the next bit of the unit under way, and its last bit is its end (R107,
R114, R115). -/
def State.tcEdge (s : State) (x : Line) (hold : Bool) (further : List Bool) : State :=
  if (s.tx.get x).place + 1 < 8 * (s.tx.get x).out.octets.length then
    s.modTx x fun e => { e with place := e.place + 1, tdx := e.out.bit e.place }
  else s.endUnit x hold further

/-- A flush of one queue: every ticket released from head to tail, counted, and the queue left empty (R116). -/
def State.flushQueue (s : State) (x : Line) (c : QClass) : State :=
  let queued := (s.tx.get x).queue c
  let s1 := s.modTx x fun e => match c with
    | .urgent => { e with urgent := [] }
    | .normal => { e with normal := [] }
  (queued.foldl (fun s t => s.releaseTicket t .flush) s1).countTx x fun k =>
    { k with flushed := satAdd k.flushed queued.length }

end Sys2Proof.Machine
end

