-- ==== Sys2Proof/Machine/EngineOps.lean ====
section
/-! DEFINITION. The Management Engine's taking of a session, its walk of the request list and the session's end
(chapter 7). -/

namespace Sys2Proof.Machine

/-! ### Taking a session (R125) -/

/-- The three conditions of R125: IDLE, the reply descriptor FREE, the management queue non-empty. -/
def State.takeDue (s : State) : Bool :=
  s.engine.state = .idle && (s.buf.desc Config.replyDesc).state = .free && s.engine.queue ≠ []

/-- The ingress line of a request block; a HELD descriptor always has one (R40, log 16). -/
def State.ingressOf (s : State) (d : Nat) : Line := (s.buf.desc d).ingress.getD .a

/-- The reply descriptor taken for a request of line `x` (R125, R50), with the reply's first cell. Its chain was left
empty when it was freed (R40). -/
def Buffer.takeReply (b : Buffer) (x : Line) : Buffer :=
  (b.modDesc Config.replyDesc fun v =>
    { v with
      state := .building, origin := .reply, ingress := none, mark := false, cls := .urgent,
      egress := LineSet.single x }).claimPart Config.replyDesc

/-- The walk outcome once the walk position is `pos` in a text of `len` octets: ended when it has passed the last one
(R128). -/
def walkAt (pos len : Nat) : WalkOutcome := if len < pos then .ended else .walking

/-- A session taken for the head of the management queue (R125). -/
def State.takeSession (s : State) : State :=
  match s.engine.queue with
  | [] => s
  | d :: rest =>
    ({ s with
      buf := s.buf.takeReply (s.ingressOf d)
      engine :=
        { state := .executing, queue := rest,
          session := some
            { request := d, position := 1, results := 0, replyLen := 0, outcome := walkAt 1 (s.buf.desc d).len } }
      }).countEngine fun c => { c with sessions := satAdd c.sessions 1 }

/-! ### The record at the walk position (R128 to R130) -/

/-- Text octet `p` of a request, counting from 1; the text begins after the six header octets (R6). -/
def Buffer.textOctet (b : Buffer) (d p : Nat) : Byte := b.storedOctet d (5 + p)

/-- The parameter octets of a record at walk position `p`. -/
def Buffer.params (b : Buffer) (d p plen : Nat) : List Byte :=
  (List.range plen).map fun i => b.textOctet d (p + 3 + i)

/-- The largest result the room check counts for a record (R130). -/
def largestResult (reinit : Bool) (code : Byte) : Nat :=
  if reinit then 4
  else match requestTable code with
    | some (_, largest) => largest
    | none => 4

/-- What becomes of the record at the walk position, by the steps of R128. -/
def State.fateOf (s : State) (ss : Session) : Fate :=
  let left := (s.buf.desc ss.request).len + 1 - ss.position
  let code := s.buf.textOctet ss.request ss.position
  let tag := s.buf.textOctet ss.request (ss.position + 1)
  let plen := (s.buf.textOctet ss.request (ss.position + 2)).toNat
  let reinit : Bool := s.engine.state = .reinitPending
  if ss.results = Config.maxResults then .truncated
  else if left < 3 + (if left < 3 then 0 else plen) then
    .malformed (if left < 1 then 0 else code) (if left < 2 then 0 else tag)
  else if Config.replyRoom < ss.replyLen + largestResult reinit code + 4 then .truncated
  else if reinit then .skipped ⟨code, tag, plen⟩
  else match requestTable code with
    | none => .unknown ⟨code, tag, plen⟩
    | some (fixed, _) =>
      if plen = fixed then .request ⟨code, tag, plen⟩ (s.buf.params ss.request ss.position plen)
      else .badLength ⟨code, tag, plen⟩

/-- The next record's fate while a session's walk is open (R127). -/
def State.nextRecord (s : State) : Option (Session × Fate) :=
  match s.engine.session with
  | some ss => if ss.outcome = .walking then some (ss, s.fateOf ss) else none
  | none => none

/-! ### Results (R132) -/

/-- The session with a result record of `n` octets more. -/
def Session.wrote (ss : Session) (n : Nat) : Session := { ss with results := ss.results + 1, replyLen := ss.replyLen + n }

/-- A result record written into the reply after the one before it (R132). -/
def State.writeResult (s : State) (replyLen : Nat) (os : List Byte) : State :=
  { s with buf := s.buf.putOctets Config.replyDesc (6 + replyLen) os }

def State.withSession (s : State) (ss : Session) : State := { s with engine := { s.engine with session := some ss } }

/-- A delimited record answered (R128): its result is written, the walk moves past its last parameter octet, and
requests executed counts it if its status is one from OK to LOCKOUT (R139). -/
def State.answer (s : State) (h : RecordHead) (status : Status) (data : List Byte) : State :=
  match s.engine.session with
  | none => s
  | some ss =>
    let os := resultRecord h.code h.tag status data
    let pos := ss.position + 3 + h.plen
    ((s.writeResult ss.replyLen os).withSession
      { ss.wrote os.length with position := pos, outcome := walkAt pos (s.buf.desc ss.request).len }).countEngine
        fun c => if status.executed then { c with executed := satAdd c.executed 1 } else c

/-- A record that runs past the end of the text answered MALFORMED, which ends the walk (R129). -/
def State.answerMalformed (s : State) (ss : Session) (code tag : Byte) : State :=
  (s.writeResult ss.replyLen (resultRecord code tag .malformed [])).withSession
    { ss.wrote 4 with outcome := .malformed }

/-! ### The session's end (R133) -/

/-- The reply's header written into its first six octets and into its descriptor (R133). -/
def Buffer.finishReply (b : Buffer) (dst src seq : Byte) (len : Nat) : Buffer :=
  (b.putOctets Config.replyDesc 0 (headerOctets dst src Config.kindReply seq len)).modDesc Config.replyDesc fun v =>
    { v with dst, src, kind := Config.kindReply, seq, len, txDst := dst }

/-- The end of a session whose walk outcome is no longer open (R133). A notice that the freeing of the request makes due
may take its place in the queue ahead of the reply (R134, R174). -/
def State.endSession (s : State) (ss : Session) : State :=
  let closing := if ss.outcome = .truncated then resultRecord 0 0 .truncated [] else []
  let s1 := s.writeResult ss.replyLen closing
  let v := s.buf.desc ss.request
  let x := s.ingressOf ss.request
  let s2 := { s1 with buf := s1.buf.finishReply v.src s.self v.seq (ss.replyLen + closing.length) }
  let s3 := (s2.freeDesc ss.request).passReplyGap.enqueueOwn Config.replyTicket Config.replyDesc x
  { s3 with
    engine :=
      { s3.engine with
        session := none
        state := if s3.engine.state = .executing then .idle else s3.engine.state } }

/-- A session whose walk outcome has left open, its last record having had its whole effect (R127), ends (R133). -/
def State.endIfOver (s : State) : State :=
  match s.engine.session with
  | some ss => if ss.outcome = .walking ∨ s.unflushed ≠ [] then s else s.endSession ss
  | none => s

end Sys2Proof.Machine
end

