-- ==== Sys2Proof/Machine/Due.lean ====
section
/-! DEFINITION. The hardware-reset sequence, and the steps that the spec puts at the very event that brings their
conditions about: the taking of a session (R125), the building of a notice (R172) and the reset a REINIT deferred
(R137). Each is a command of its own; one that is due is taken before any other event reaches the part (log 3). -/

namespace Sys2Proof.Machine

/-- The hardware-reset sequence: every block takes its after-reset values (R35, R56, R80, R120, R140, R178, R180). Cell
contents have none and stay (log 10); TDx keeps its level until the first bit of the fill pair (R179; log 9); the model's
own inputs are not the part's and stay. -/
def State.resetPart (s : State) : State :=
  { State.reset with
    tx := s.tx.map fun e => { tdx := e.tdx }
    buf := { State.reset.buf with mem := s.buf.mem }
    pending := s.pending
    edges := s.edges
    ticks := s.ticks
    gaps := s.gaps
    flushes := s.flushes
    awaits := s.awaits
    arrivals := s.arrivals }

/-- The reset of a pending REINIT is due once the reply descriptor is free again: the session that carried the REINIT has
ended, and its reply is gone (R137). -/
def State.reinitDue (s : State) : Bool :=
  s.engine.state = .reinitPending && s.engine.session = none && (s.buf.desc Config.replyDesc).state = .free

def State.reinitIfDue (s : State) : State := if s.reinitDue then s.resetPart else s

def State.takeIfDue (s : State) : State := if s.takeDue then s.takeSession else s

/-- Whatever is due, taken: the reset, else the session, and then the emitter's events with the notices they make due
(logs 3 and 4). -/
def State.settle (s : State) : State := s.reinitIfDue.takeIfDue.drain

/-- A step of the running part: nothing reaches it while RESET is high (R181), and whatever is due comes first. -/
def State.running (s : State) (f : State → State) : State := if s.resetHigh then s else f s.settle

/-- RESET is low and nothing is due: the part as it stands between events. -/
def State.quiet (s : State) : Bool :=
  !s.resetHigh && !s.reinitDue && !s.takeDue && s.emitter.inbox.isEmpty && !s.buildDue

end Sys2Proof.Machine
end

