-- ==== Sys2Proof/Machine/Emitter.lean ====
section
/-! DEFINITION. The Notice Emitter's own step (chapter 9); the expiry of its timer stands with the ticks. -/

namespace Sys2Proof.Machine

/-- The notice built once the emitter has taken its events, whatever it still waits for (log 4). -/
def State.buildNow (s : State) : State := if s.drain.buildable then s.drain.buildNotice else s.drain

/-- NOTICE_BUILD (R173). It comes before a session that is due with it (log 3). -/
def execNoticeBuild (s : State) : Host.Outcome State Fault Refusal :=
  .next (if s.resetHigh then s else s.reinitIfDue.buildNow)

end Sys2Proof.Machine
end

