-- ==== Sys2Proof/Machine/GapOps.lean ====
section
/-! DEFINITION. What falls in the gaps of a dispatch: claims and releases at the ticket pool, and the reply and notice
tickets, each an event of its own (R44, R97; log 21). -/

namespace Sys2Proof.Machine

/-- One event of a gap. A tick, a selection, a flush or another block's copy is none of them: that none comes, at one queue
block, between a notice enqueued in a gap and the copy behind it is the model's choice (DESIGN CHOICE, log 24). -/
def State.takeGapEvent (s : State) : GapEvent → State
  | .sent y => s.endBlockSent y
  | .notice => s.drain
  | .reply => s.endIfOver

/-- One gap, before a ticket claim of a dispatch, and what falls in it. -/
def State.passGap (s : State) : State := (s.gaps.headD []).foldl State.takeGapEvent { s with gaps := s.gaps.tail }

end Sys2Proof.Machine
end

