-- ==== Sys2Proof/Machine/ForwardingOps.lean ====
section
/-! DEFINITION. The Forwarding Unit (chapter 5) with the Route Table's lookup and completion report (chapter 4), and the
receiver's own return of what a block holds (R22, R34). -/

namespace Sys2Proof.Machine

/-! ### What a block holds goes back -/

/-- The descriptor in fill goes back with its cells, and its bind is released (R22, R34, R86). -/
def State.returnBlock (s : State) (x : Line) : State :=
  match (s.rx.get x).filling with
  | some d => (s.releaseBind d).freeDesc d
  | none => s

/-- The receiver's items that are present inside a block become absent and the deadline stops (R12, R19, R28, R34). -/
def Receiver.endBlock (r : Receiver) : Receiver :=
  { r with disposition := none, crc := none, heldCheck := none, filling := none, cell := none, deadline := .stopped }

/-- The receiver follows its block as SINK from here on (R22, R23, R86). -/
def Receiver.toSink (r : Receiver) : Receiver := { r with disposition := some .sink, filling := none, cell := none }

/-- A block turned from STORE to SINK, everything it held returned (R22, R86). -/
def State.sinkBlock (s : State) (x : Line) : State := (s.returnBlock x).modRx x Receiver.toSink

/-- Abandonment (R34). -/
def State.abandon (s : State) (x : Line) : State := (s.returnBlock x).modRx x Receiver.endBlock

/-! ### Lookup (R63) -/

def Slot.matches (line : Line) (dst : Byte) : Slot → Bool
  | .active e => e.keyLine = line && e.keyDst = dst
  | .free | .retiring _ => false

/-- The ACTIVE slot that has a key (R59, R63). -/
def RouteTable.find (r : RouteTable) (line : Line) (dst : Byte) : Option Nat :=
  r.slots.findIdx? (Slot.matches line dst)

/-- A matched slot's decision written into the descriptor (R85). -/
def Descriptor.capture (v : Descriptor) (n : Nat) (e : Entry) : Descriptor :=
  match e.route with
  | .forward egress cls rewrite =>
    { v with mark := false, action := .forward, egress, cls, txDst := rewrite.getD v.dst, bound := .slot n }
  | .discard => { v with mark := false, action := .discard, txDst := v.dst, bound := .slot n }

/-- A default route's decision written into the descriptor (R85). -/
def Descriptor.captureDefault (v : Descriptor) (x : Line) : DefaultRoute → Descriptor
  | .forward egress cls =>
    { v with mark := false, action := .forward, egress, cls, txDst := v.dst, bound := .default x }
  | .discard => { v with mark := false, action := .discard, txDst := v.dst, bound := .default x }

/-- The lookup of traffic at header completion, its bind and its captured decision (R63, R85). -/
def State.lookup (s : State) (x : Line) (d : Nat) : State :=
  match s.routes.find x (s.buf.desc d).dst with
  | some n =>
    match s.routes.slot n with
    | .active e =>
      ({ s with routes := s.routes.setSlot n (.active { e with binds := e.binds + 1 }) }).modDesc d fun v =>
        v.capture n e
    | .free | .retiring _ => s
  | none =>
    (s.modDesc d fun v => v.captureDefault x (s.routes.defaults.get x)).countRx x fun c =>
      { c with defaultHits := satAdd c.defaultHits 1 }

/-- The decision at header completion, the first case of section 5.2 that applies (R82 to R86). -/
def State.decideBlock (s : State) (x : Line) (d : Nat) : State :=
  let v := s.buf.desc d
  if v.dst = s.self then
    if v.kind = Config.kindMgmt then
      if (s.config.get x).permitted then s.modDesc d fun v => { v with mark := true }
      else (s.countRx x fun c => { c with mgmtRefused := satAdd c.mgmtRefused 1 }).sinkBlock x
    else (s.countRx x fun c => { c with strayToSelf := satAdd c.strayToSelf 1 }).sinkBlock x
  else
    let s1 := s.lookup x d
    if (s1.buf.desc d).action = .discard then s1.sinkBlock x else s1

/-! ### The completion report (R67 to R71) -/

/-- The report of a completed block to its route: the evaluation, then the release of the bind, one event (R69). -/
def State.report (s : State) (x : Line) (d : Nat) : Verdict × State :=
  let v := s.buf.desc d
  match v.bound with
  | .slot n =>
    match s.routes.slot n with
    | .active e =>
      let r := e.evaluate v.seq v.len
      (r.1, ({ s with routes := s.routes.setSlot n (.active r.2) }).releaseBind d)
    | .retiring _ =>
      (.retired, (s.countRx x fun c => { c with retiredCompletions := satAdd c.retiredCompletions 1 }).releaseBind d)
    | .free => (.accepted, s.releaseBind d)
  | .default _ | .none => (.accepted, s.releaseBind d)

/-! ### Admission (R94 to R96) -/

/-- One copy: a general ticket, the depth check, then the tail of the queue, or a drop counted on its line. -/
def State.admitCopy (s : State) (d : Nat) (x : Line) : State :=
  let v := s.buf.desc d
  match s.buf.freeTickets with
  | [] => s.countTx x fun c => { c with ticketExhausted := satAdd c.ticketExhausted 1 }
  | t :: _ =>
    let b := s.buf.claimTicket d x v.cls
    if (s.config.get x).limit v.cls < s.occupancy x v.cls + v.chain.length then
      ({ s with buf := b.withdrawTicket t }).countTx x fun c => { c with queueFull := satAdd c.queueFull 1 }
    else ({ s with buf := b.setWaiting t d x v.cls }).modTx x fun e => e.enqueue v.cls t

/-- The copies of a block one after another, with a gap before each claim (R44, R97). -/
def State.admitCopies (d : Nat) : List Line → State → State
  | [], s => s
  | x :: xs, s => State.admitCopies d xs (s.passGap.admitCopy d x)

/-- The copies of a block in the order A, B, L, and then its descriptor's state (R94, R96, R97). -/
def State.admitBlock (s : State) (d : Nat) : State :=
  let s1 := State.admitCopies d (s.buf.desc d).egress.members s
  if (s1.buf.desc d).tickets = 0 then s1.freeDesc d else s1.modDesc d fun v => { v with state := .queued }

/-! ### Dispatch at block completion (R89 to R93) -/

/-- A marked block is offered to the management queue (R91). -/
def State.offer (s : State) (x : Line) (d : Nat) : State :=
  if s.engine.queue.length < Config.mgmtQueueMax then
    { (s.modDesc d fun v => { v with state := .held }) with
      engine := { s.engine with queue := s.engine.queue ++ [d] } }
  else
    ((s.freeDesc d).countEngine fun c => { c with overflows := satAdd c.overflows 1 }).raise (.mgmtOverflow x)

/-- A good stored block: the management queue, or its route and its copies (R91, R93). -/
def State.dispatchStored (s : State) (x : Line) (d : Nat) : State :=
  if (s.buf.desc d).mark then s.offer x d
  else
    match s.report x d with
    | (.duplicate, s1) => s1.freeDesc d
    | (.accepted, s1) | (.retired, s1) => s1.admitBlock d

/-- A good block of text length `len`: counted on its line, and dispatched if it is stored (R89, R90). -/
def State.dispatch (s : State) (x : Line) (len : Nat) : State :=
  let s1 := s.countRx x fun c =>
    { c with goodBlocks := satAdd c.goodBlocks 1, goodOctets := satAdd c.goodOctets (len + 6) }
  match (s.rx.get x).filling with
  | some d => s1.dispatchStored x d
  | none => s1

end Sys2Proof.Machine
end

