-- ==== Sys2Proof/Machine/ReceiverOps.lean ====
section
/-! DEFINITION. What a line receiver does with a bit, an octet, an expiry and a restart (chapter 2). -/

namespace Sys2Proof.Machine

/-! ### Synchronism -/

/-- The comparison of HUNT: eight valid bits equal to SYN1 fix the alignment and lead to CONFIRM (R14, R16). -/
def State.huntCompare (s : State) (x : Line) : State :=
  let r := s.rx.get x
  if r.history.length = 8 ∧ octetOf r.history = (s.config.get x).syn1 then
    s.modRx x fun r => { r.enter .confirm with align := some 0 }
  else s

/-- HUNT entered, whatever block was in reception abandoned (R19, R32, R34). -/
def State.toHunt (s : State) (x : Line) : State :=
  (s.abandon x).modRx x fun r => { r.enter .hunt with align := none }

/-- A loss of synchronism (R19). -/
def State.loseSync (s : State) (x : Line) : State :=
  ((s.toHunt x).countRx x fun c => { c with syncLosses := satAdd c.syncLosses 1 }).raise (.syncLost x)

/-- A line restart (R32). -/
def State.restart (s : State) (x : Line) : State :=
  if (s.rx.get x).state.inSync then (s.toHunt x).raise (.syncLost x) else s.toHunt x

/-- The expiry of the reception deadline, where a tick has lowered the countdown to 0 (R30, R31); where none stands at 0
there is no expiry (R33). -/
def State.expire (s : State) (x : Line) : State :=
  if (s.rx.get x).deadline = .running 0 then
    (s.countRx x fun c => { c with deadlineAbandons := satAdd c.deadlineAbandons 1 }).loseSync x
  else s

/-- CONFIRM takes an octet (R15). -/
def State.takeConfirm (s : State) (x : Line) (o : Byte) : State :=
  if o = (s.config.get x).syn2 then
    ((s.modRx x fun r => r.enter .gap).countRx x fun c =>
      { c with syncAcquisitions := satAdd c.syncAcquisitions 1 }).raise (.syncGained x)
  else (s.modRx x fun r => { r.enter .hunt with align := none }).huntCompare x

/-! ### Blocks -/

/-- BLK in GAP begins a block (R20). -/
def State.beginBlock (s : State) (x : Line) : State :=
  let d := (s.config.get x).deadline
  let s1 := s.modRx x fun r =>
    { r.enter .header with
      header := [], position := 0, crc := some 0xFFFF, heldCheck := none, cell := none,
      deadline := if d = 0 then .stopped else .running d }
  match s.buf.freeDescs with
  | n :: _ =>
    ({ s1 with buf := s1.buf.claimDesc x }).modRx x fun r => { r with disposition := some .store, filling := some n }
  | [] =>
    (s1.modRx x fun r => { r with disposition := some .sink, filling := none }).countRx x fun c =>
      { c with descExhausted := satAdd c.descExhausted 1 }

/-- An octet written into the current cell at its fill level. -/
def State.writeCurrent (s : State) (x : Line) (c : CellFill) (o : Byte) : State :=
  ({ s with buf := { s.buf with mem := s.buf.mem.write (cellAddress c.cell c.fill) o } }).modRx x fun r =>
    { r with cell := some ⟨c.cell, c.fill + 1⟩ }

/-- A stored octet that needs a new cell: the head general cell joins the chain and takes the octet (R21), or no cell
is free and the block turns to SINK (R22). -/
def State.storeInNew (s : State) (x : Line) (d : Nat) (o : Byte) : State :=
  match s.buf.freeCells with
  | c :: _ =>
    let s1 := s.withBuf s.buf.claimCell
    ({ s1 with buf := s1.buf.appendCell d c }).writeCurrent x ⟨c, 0⟩ o
  | [] => (s.sinkBlock x).countRx x fun c => { c with bufferExhausted := satAdd c.bufferExhausted 1 }

/-- A STORE block's octet is stored, in a new cell when none is held or the current one is full (R21). -/
def State.storeOctet (s : State) (x : Line) (o : Byte) : State :=
  match (s.rx.get x).filling, (s.rx.get x).cell with
  | none, _ => s
  | some d, some c => if c.fill < Config.cellSize then s.writeCurrent x c o else s.storeInNew x d o
  | some d, none => s.storeInNew x d o

/-- A header or text octet enters the running check (R4, R21). -/
def Receiver.feed (r : Receiver) (o : Byte) : Receiver := { r with crc := r.crc.map fun k => crcOctet k o }

/-- LEN as the header register holds it (R24). -/
def Receiver.len (r : Receiver) : Nat := wordOf (r.header.getD 4 0) (r.header.getD 5 0)

/-- A header octet placed in the header register, stored and fed to the check (R21, R24). -/
def State.placeHeader (s : State) (x : Line) (o : Byte) : State :=
  (s.modRx x fun r => { r.feed o with header := r.header ++ [o], position := r.position + 1 }).storeOctet x o

/-- The header as received and LEN written into the descriptor (R26). -/
def Descriptor.withHeader (v : Descriptor) (h : List Byte) (len : Nat) : Descriptor :=
  { v with dst := h.getD 0 0, src := h.getD 1 0, kind := h.getD 2 0, seq := h.getD 3 0, len }

/-- The sixth header octet (R24 to R26). -/
def State.completeHeader (s : State) (x : Line) (o : Byte) : State :=
  let s1 := s.placeHeader x o
  let r := s1.rx.get x
  if Config.maxLen < r.len then
    ((s1.countRx x fun c => { c with headerFaults := satAdd c.headerFaults 1 }).loseSync x).huntCompare x
  else
    let s2 :=
      match r.filling with
      | some d => (s1.modDesc d fun v => v.withHeader r.header r.len).decideBlock x d
      | none => s1
    s2.modRx x fun q => { q.enter (if r.len = 0 then .check else .body) with position := 0 }

/-- A text octet (R27). -/
def State.takeText (s : State) (x : Line) (o : Byte) : State :=
  let s1 := (s.modRx x fun r => { r.feed o with position := r.position + 1 }).storeOctet x o
  let r := s1.rx.get x
  if r.position = r.len then s1.modRx x fun q => { q.enter .check with position := 0 } else s1

/-- The first check octet, held (R28). -/
def State.takeCheck (s : State) (x : Line) (o : Byte) : State :=
  s.modRx x fun r => { r with heldCheck := some o, position := 1 }

/-- Whether the running check equals the two check octets, the first of them the high one (R4). -/
def Receiver.goodCheck (r : Receiver) (o : Byte) : Bool :=
  match r.crc, r.heldCheck with
  | some k, some h => k.toNat = wordOf h o
  | _, _ => false

/-- Block completion (R28, R29). -/
def State.completeBlock (s : State) (x : Line) (o : Byte) : State :=
  let r := s.rx.get x
  let s1 := s.modRx x fun r => { r with position := 2, deadline := .stopped }
  let s2 :=
    if r.goodCheck o then (s1.dispatch x r.len).modRx x Receiver.endBlock
    else (s1.countRx x fun c => { c with checkFailures := satAdd c.checkFailures 1 }).abandon x
  s2.modRx x fun q => q.enter .gap

/-! ### Octets and bits -/

/-- GAP takes an octet (R17). -/
def State.takeGap (s : State) (x : Line) (o : Byte) : State :=
  if o = (s.config.get x).syn1 then s.modRx x fun r => r.enter .gapSyn
  else if o = Config.blk then s.beginBlock x
  else (s.loseSync x).huntCompare x

/-- GAP-SYN takes an octet (R18). -/
def State.takeGapSyn (s : State) (x : Line) (o : Byte) : State :=
  if o = (s.config.get x).syn2 then s.modRx x fun r => r.enter .gap else (s.loseSync x).huntCompare x

/-- An aligned octet, whose bits the history already holds, taken as the receiver's state gives (section 2.1). -/
def State.takeOctet (s : State) (x : Line) (o : Byte) : State :=
  match (s.rx.get x).state with
  | .hunt => s
  | .confirm => s.takeConfirm x o
  | .gap => s.takeGap x o
  | .gapSyn => s.takeGapSyn x o
  | .header => if (s.rx.get x).position < 5 then s.placeHeader x o else s.completeHeader x o
  | .body => s.takeText x o
  | .check => if (s.rx.get x).position = 0 then s.takeCheck x o else s.completeBlock x o

/-- One bit on RDx (R14, R179): it enters the history; in HUNT the comparison is made, else the eighth bit of an octet
brings the octet. -/
def State.receiveBit (s : State) (x : Line) (bit : Bool) : State :=
  let r := s.rx.get x
  let h := pushBit r.history bit
  match r.align with
  | none => (s.modRx x fun r => { r with history := h }).huntCompare x
  | some p =>
    if p < 7 then s.modRx x fun r => { r with history := h, align := some (p + 1) }
    else (s.modRx x fun r => { r with history := h, align := some 0 }).takeOctet x (octetOf h)

end Sys2Proof.Machine
end

