-- ==== Sys2Proof/Machine/FlushOps.lean ====
section
/-! DEFINITION. The parts of a FLUSH-ALL (R163), each one event at its own resource (R92, R117), and the order of the
engine's own steps: a record is taken once the record before it has had its whole effect (R127). -/

namespace Sys2Proof.Machine

/-- The queues of a class set flushed, URGENT first (R116). -/
def State.flushClasses (s : State) (x : Line) (classes : List QClass) : State :=
  classes.foldl (fun s c => s.flushQueue x c) s

/-- Every waiting management block freed unanswered, from head to tail (R138). -/
def State.discardQueue (s : State) : State :=
  s.engine.queue.foldl (fun s d => s.freeDesc d) { s with engine := { s.engine with queue := [] } }

/-- What a FLUSH-ALL does at one resource (R116, R32, R138). -/
def State.flushPart (s : State) : FlushPart → State
  | .queues x => s.flushClasses x [.urgent, .normal]
  | .receiver x => s.restart x
  | .management => s.discardQueue

/-- The FLUSH-ALL under way makes a part, if it has not yet. -/
def State.makePart (s : State) (k : FlushPart) : State :=
  if k ∈ s.unflushed then State.flushPart { s with unflushed := s.unflushed.erase k } k else s

/-- The parts listed for this step of a FLUSH-ALL, made (log 13). -/
def State.makeParts (s : State) : State :=
  (s.flushes.headD FlushPart.all).foldl State.makePart { s with flushes := s.flushes.tail }

/-- A FLUSH-ALL: it has seven parts to make, and makes those listed for this step (R163). -/
def State.flushAll (s : State) : State := State.makeParts { s with unflushed := FlushPart.all }

/-- The FLUSH-ALL under way has still to make all of the parts listed for the next step of one. -/
def State.flushGoesOn (s : State) : Bool :=
  !(s.flushes.headD []).isEmpty && (s.flushes.headD []).all fun k => decide (k ∈ s.unflushed)

/-- The FLUSH-ALL under way, if there is one, makes every part that it has not made yet. -/
def State.finishFlush (s : State) : State :=
  if s.unflushed = [] then s else (s.unflushed.foldl State.makePart s).settle

/-- A step of the engine's own: the record before it has its whole effect first (R127). -/
def State.atRecord (s : State) (f : State → State) : State := s.running fun t => f t.finishFlush

end Sys2Proof.Machine
end

