-- ==== Sys2Proof/Machine/Engine.lean ====
section
/-! DEFINITION. The engine's own steps: a session taken and ended, and the records that are no request of chapter 8
(chapter 7). -/

namespace Sys2Proof.Machine

/-- SESSION_TAKE (R125). It comes before a notice that is due with it (log 3). -/
def execSessionTake (s : State) : Host.Outcome State Fault Refusal :=
  .next (if s.resetHigh then s else s.reinitIfDue.takeIfDue)

/-- MALFORMED_RECORD (R129). -/
def execMalformedRecord (s : State) : Host.Outcome State Fault Refusal :=
  .next (s.atRecord fun s =>
    match s.nextRecord with
    | some (ss, .malformed code tag) => s.answerMalformed ss code tag
    | _ => s)

/-- WALK_TRUNCATION (R131): the record stopped writes nothing and moves nothing; the walk outcome is truncated. -/
def execWalkTruncation (s : State) : Host.Outcome State Fault Refusal :=
  .next (s.atRecord fun s =>
    match s.nextRecord with
    | some (ss, .truncated) => s.withSession { ss with outcome := .truncated }
    | _ => s)

/-- SKIPPED_RECORD (R128, step 4). -/
def execSkippedRecord (s : State) : Host.Outcome State Fault Refusal :=
  .next (s.atRecord fun s =>
    match s.nextRecord with
    | some (_, .skipped h) => s.answer h .skipped []
    | _ => s)

/-- UNKNOWN_REQUEST_RECORD (R128, step 5). -/
def execUnknownRequestRecord (s : State) : Host.Outcome State Fault Refusal :=
  .next (s.atRecord fun s =>
    match s.nextRecord with
    | some (_, .unknown h) => s.answer h .unknownRequest []
    | _ => s)

/-- BAD_LENGTH_RECORD (R128, step 6). -/
def execBadLengthRecord (s : State) : Host.Outcome State Fault Refusal :=
  .next (s.atRecord fun s =>
    match s.nextRecord with
    | some (_, .badLength h) => s.answer h .badLength []
    | _ => s)

/-- SESSION_END (R133): taken once the walk outcome has left open. -/
def execSessionEnd (s : State) : Host.Outcome State Fault Refusal :=
  .next (s.atRecord State.endIfOver)

end Sys2Proof.Machine
end

