-- ==== Sys2Proof/Machine/Receivers.lean ====
section
/-! DEFINITION. The commands of the line receivers (chapter 2). A bit or octet command brings line data; what the data
turns out to be is decided by the receiver's state when it is taken (R31, R33; log 2). -/

namespace Sys2Proof.Machine

/-- The eight bits of an octet on RDx: taken whole by a receiver that stands at an octet boundary, else bit by bit, each
an event of its own (R31, R33, R179; log 2). -/
def State.receiveOctet (s : State) (x : Line) (o : Byte) : State :=
  if (s.rx.get x).align = some 0 then (s.modRx x fun r => { r with history := octetBits o }).takeOctet x o
  else (octetBits o).foldl (fun s bit => s.settle.receiveBit x bit) s

/-- HUNT_MATCH (R14). -/
def execHuntMatch (x : Line) (bit : Bool) (s : State) : Host.Outcome State Fault Refusal :=
  .next (s.running fun s => s.receiveBit x bit)

/-- HUNT_COMPARISON_NO_MATCH (R14). -/
def execHuntComparisonNoMatch (x : Line) (bit : Bool) (s : State) : Host.Outcome State Fault Refusal :=
  .next (s.running fun s => s.receiveBit x bit)

/-- OCTET_IN_CONFIRM (R15). -/
def execOctetInConfirm (x : Line) (o : Byte) (s : State) : Host.Outcome State Fault Refusal :=
  .next (s.running fun s => s.receiveOctet x o)

/-- OCTET_IN_GAP (R17). -/
def execOctetInGap (x : Line) (o : Byte) (s : State) : Host.Outcome State Fault Refusal :=
  .next (s.running fun s => s.receiveOctet x o)

/-- OCTET_IN_GAP_SYN (R18). -/
def execOctetInGapSyn (x : Line) (o : Byte) (s : State) : Host.Outcome State Fault Refusal :=
  .next (s.running fun s => s.receiveOctet x o)

/-- HEADER_OCTET (R21). -/
def execHeaderOctet (x : Line) (o : Byte) (s : State) : Host.Outcome State Fault Refusal :=
  .next (s.running fun s => s.receiveOctet x o)

/-- HEADER_COMPLETION (R24). -/
def execHeaderCompletion (x : Line) (o : Byte) (s : State) : Host.Outcome State Fault Refusal :=
  .next (s.running fun s => s.receiveOctet x o)

/-- TEXT_OCTET (R27). -/
def execTextOctet (x : Line) (o : Byte) (s : State) : Host.Outcome State Fault Refusal :=
  .next (s.running fun s => s.receiveOctet x o)

/-- CHECK_OCTET (R28). -/
def execCheckOctet (x : Line) (o : Byte) (s : State) : Host.Outcome State Fault Refusal :=
  .next (s.running fun s => s.receiveOctet x o)

/-- BLOCK_COMPLETION (R28, R29). -/
def execBlockCompletion (x : Line) (o : Byte) (s : State) : Host.Outcome State Fault Refusal :=
  .next (s.running fun s => s.receiveOctet x o)

end Sys2Proof.Machine
end

