-- ==== Sys2Proof/Machine/Requests.lean ====
section
/-! DEFINITION. The sixteen management requests (chapter 8): what each does with its parameters at step 7 of the walk. -/

namespace Sys2Proof.Machine

/-- What a request answers: a status, result data, and the part after its effect. -/
structure Response where
  status : Status
  data : List Byte
  state : State

/-- A refused request changes no state and carries no data (R141). -/
def refuse (status : Status) (s : State) : Response := ⟨status, [], s⟩

/-- A request carried out (R141). -/
def accept (data : List Byte) (s : State) : Response := ⟨.ok, data, s⟩

/-- The record at the walk position is carried out if it is a request of this code that has reached step 7, and its
result is written; a record that is anything else is another step's, and nothing happens (log 1). -/
def State.serve (s : State) (code : Byte) (respond : Session → List Byte → State → Response) : State :=
  match s.nextRecord with
  | some (ss, .request h params) =>
    if h.code = code then (respond ss params s).state.answer h (respond ss params s).status (respond ss params s).data
    else s
  | _ => s

/-! ### Identification (R142) -/

def respondIdentify (_ : Session) (_ : List Byte) (s : State) : Response := accept identifyData s

/-! ### Line configuration (R143 to R148) -/

/-- The two tests of R144 on a record that carries management permitted 0 for line `x`. -/
def State.lockedOut (s : State) (ss : Session) (x : Line) (c : LineConfig) : Bool :=
  !c.permitted &&
    ((s.buf.desc ss.request).ingress = some x ||
      [Line.a, Line.b, Line.l].all fun y => !((s.config.set x c).get y).permitted)

/-- A line's record replaced; a changed sync pair restarts its receiver, after the record is written (R145, R146). -/
def State.setConfig (s : State) (x : Line) (c : LineConfig) : State :=
  let old := s.config.get x
  let s1 := { s with config := s.config.set x c }
  if old.syn1 = c.syn1 ∧ old.syn2 = c.syn2 then s1 else s1.restart x

def respondLineSet (ss : Session) (params : List Byte) (s : State) : Response :=
  match params with
  | code :: body =>
    match Line.ofCode code, LineConfig.ofOctets body with
    | some x, some c =>
      if c.legal = false then refuse .badParameter s
      else if s.lockedOut ss x c then refuse .lockout s
      else accept [] (s.setConfig x c)
    | _, _ => refuse .badParameter s
  | [] => refuse .badParameter s

def respondLineGet (_ : Session) (params : List Byte) (s : State) : Response :=
  match params with
  | [code] =>
    match Line.ofCode code with
    | some x => accept ([code] ++ (s.config.get x).octets ++ [(s.rx.get x).state.code]) s
    | none => refuse .badParameter s
  | _ => refuse .badParameter s

def respondLineRestart (_ : Session) (params : List Byte) (s : State) : Response :=
  match params with
  | [code] =>
    match Line.ofCode code with
    | some x => accept [] (s.restart x)
    | none => refuse .badParameter s
  | _ => refuse .badParameter s

/-! ### Queues (R149) -/

/-- Class set values (section 1.8). -/
def classSetOf (o : Byte) : Option (List QClass) :=
  if o = 1 then some [.urgent] else if o = 2 then some [.normal] else if o = 3 then some [.urgent, .normal] else none

def respondQueueFlush (_ : Session) (params : List Byte) (s : State) : Response :=
  match params with
  | [code, set] =>
    match Line.ofCode code, classSetOf set with
    | some x, some classes =>
      accept (octets2 ((classes.map fun c => ((s.tx.get x).queue c).length).sum)) (s.flushClasses x classes)
    | _, _ => refuse .badParameter s
  | _ => refuse .badParameter s

/-! ### Routes (R151 to R157) -/

def State.setSlot (s : State) (n : Nat) (v : Slot) : State := { s with routes := s.routes.setSlot n v }

def respondDefaultSet (_ : Session) (params : List Byte) (s : State) : Response :=
  match params with
  | code :: body =>
    match Line.ofCode code, DefaultRoute.ofOctets body with
    | some x, some r => accept [] { s with routes := { s.routes with defaults := s.routes.defaults.set x r } }
    | _, _ => refuse .badParameter s
  | [] => refuse .badParameter s

/-- The lowest-numbered FREE slot (R73). -/
def RouteTable.lowestFree (r : RouteTable) : Option Nat := r.slots.findIdx? fun v => v = .free

def respondRouteInsert (_ : Session) (params : List Byte) (s : State) : Response :=
  match params with
  | line :: dst :: body =>
    match Line.ofCode line, Route.ofOctets body with
    | some x, some (route, window) =>
      match s.routes.find x dst with
      | some _ => refuse .keyExists s
      | none =>
        match s.routes.lowestFree with
        | none => refuse .tableFull s
        | some n =>
          accept [loOctet n]
            (s.setSlot n (.active { keyLine := x, keyDst := dst, route, seqCheck := SeqCheck.given window }))
    | _, _ => refuse .badParameter s
  | _ => refuse .badParameter s

/-- The four counters of an entry set to zero (R75, R78). -/
def Entry.cleared (e : Entry) : Entry := { e with blocks := 0, octets := 0, duplicates := 0, gaps := 0 }

/-- An entry updated (R75): the route fields replaced, the sequence state by the two windows, the counters cleared if
asked. -/
def Entry.updated (e : Entry) (route : Route) (window : Nat) (clear : Bool) : Entry :=
  let check :=
    match e.seqCheck with
    | some k => if window = 0 then none else some { k with window }
    | none => SeqCheck.given window
  let e1 := if clear then e.cleared else e
  { e1 with route, seqCheck := check }

def respondRouteUpdate (_ : Session) (params : List Byte) (s : State) : Response :=
  match params with
  | [n, line, dst, p0, p1, p2, p3, p4, p5, clear] =>
    match Line.ofCode line, Route.ofOctets [p0, p1, p2, p3, p4, p5], flagOf clear with
    | some x, some (route, window), some cl =>
      match s.routes.slot n.toNat with
      | .active e =>
        if e.keyLine = x ∧ e.keyDst = dst then accept [] (s.setSlot n.toNat (.active (e.updated route window cl)))
        else refuse .keyMismatch s
      | .free | .retiring _ => refuse .noSuchSlot s
    | _, _, _ => refuse .badParameter s
  | _ => refuse .badParameter s

def respondRouteDelete (_ : Session) (params : List Byte) (s : State) : Response :=
  match params with
  | [n, line, dst] =>
    match Line.ofCode line with
    | some x =>
      match s.routes.slot n.toNat with
      | .active e =>
        if e.keyLine = x ∧ e.keyDst = dst then
          if e.binds = 0 then accept [0x00] (s.setSlot n.toNat .free)
          else accept [0x02] (s.setSlot n.toNat (.retiring e))
        else refuse .keyMismatch s
      | .free | .retiring _ => refuse .noSuchSlot s
    | none => refuse .badParameter s
  | _ => refuse .badParameter s

/-- The data of ROUTE-READ after the slot number: key, body, E, primed, bind count (R77, R155). -/
def Entry.readData (e : Entry) : List Byte :=
  [e.keyLine.code, e.keyDst] ++ e.route.octets e.seqCheck ++
    (match e.seqCheck with
      | some k => [k.expected, flagCode k.primed]
      | none => [0, 0]) ++
    [loOctet e.binds]

def respondRouteRead (_ : Session) (params : List Byte) (s : State) : Response :=
  match params with
  | [n] =>
    match s.routes.slot n.toNat with
    | .active e => accept (n :: e.readData) s
    | .free | .retiring _ => refuse .noSuchSlot s
  | _ => refuse .badParameter s

def respondRouteFind (_ : Session) (params : List Byte) (s : State) : Response :=
  match params with
  | [line, dst] =>
    match Line.ofCode line with
    | some x =>
      match s.routes.find x dst with
      | some n => accept [loOctet n] s
      | none => refuse .noSuchSlot s
    | none => refuse .badParameter s
  | _ => refuse .badParameter s

/-! ### Counters (R158, R159) -/

/-- The members of the BUFFER group, in member order (R51, R54). -/
def Buffer.members (b : Buffer) : List Nat :=
  [b.freeCells.length, b.freeDescs.length, b.freeTickets.length, b.hwCells, b.hwDescs]

/-- The high-water marks set to the numbers in use (R55). -/
def Buffer.clearMarks (b : Buffer) : Buffer := { b with hwCells := b.cellsInUse, hwDescs := b.descsInUse }

/-- The data of COUNTERS-READ: group, subject, each member in 4 octets (R158). -/
def countersData (group subject : Byte) (members : List Nat) : List Byte :=
  [group, subject] ++ members.flatMap octets4

/-- The group read, and cleared after its values are taken where clear is 1 (R159). -/
def State.readGroup (s : State) (group subject : Byte) (clear : Bool) : Response :=
  if group = 0x00 then
    match Line.ofCode subject with
    | some x =>
      accept (countersData group subject (s.count.rx.get x).members) (if clear then s.countRx x fun _ => {} else s)
    | none => refuse .badParameter s
  else if group = 0x01 then
    match Line.ofCode subject with
    | some x =>
      accept (countersData group subject (s.count.tx.get x).members) (if clear then s.countTx x fun _ => {} else s)
    | none => refuse .badParameter s
  else if group = 0x02 then
    match s.routes.slot subject.toNat with
    | .active e =>
      accept (countersData group subject [e.blocks, e.octets, e.duplicates, e.gaps])
        (if clear then s.setSlot subject.toNat (.active e.cleared) else s)
    | .retiring e =>
      accept (countersData group subject [e.blocks, e.octets, e.duplicates, e.gaps])
        (if clear then s.setSlot subject.toNat (.retiring e.cleared) else s)
    | .free => refuse .noSuchSlot s
  else if group = 0x03 ∧ subject = 0 then
    accept (countersData group subject s.buf.members) (if clear then { s with buf := s.buf.clearMarks } else s)
  else if group = 0x04 ∧ subject = 0 then
    accept (countersData group subject s.count.engine.members) (if clear then s.countEngine fun _ => {} else s)
  else refuse .badParameter s

def respondCountersRead (_ : Session) (params : List Byte) (s : State) : Response :=
  match params with
  | [group, subject, clear] =>
    match flagOf clear with
    | some cl => s.readGroup group subject cl
    | none => refuse .badParameter s
  | _ => refuse .badParameter s

/-! ### Notices and the own station address (R160 to R162) -/

def respondNoticeSet (_ : Session) (params : List Byte) (s : State) : Response :=
  match params with
  | [enable, station, line, i1, i0] =>
    match flagOf enable, Line.ofCode line with
    | some enabled, some x =>
      if 10 ≤ wordOf i1 i0 ∧ wordOf i1 i0 ≤ 10000 then
        accept []
          { s with
            emitter :=
              { s.emitter with
                enabled, station, line := x, interval := wordOf i1 i0, pending := {}
                timer := if enabled then .expired else s.emitter.timer } }
      else refuse .badParameter s
    | _, _ => refuse .badParameter s
  | _ => refuse .badParameter s

def respondSelfSet (_ : Session) (params : List Byte) (s : State) : Response :=
  match params with
  | [o] => accept [] { s with self := o }
  | _ => refuse .badParameter s

/-! ### Whole-part requests (R163 to R165) -/

def respondFlushAll (_ : Session) (_ : List Byte) (s : State) : Response := accept [] s.flushAll

def respondReinit (_ : Session) (_ : List Byte) (s : State) : Response :=
  accept [] { s with engine := { s.engine with state := .reinitPending } }

/-! ### The commands -/

/-- IDENTIFY (R142). -/
def execIdentify (s : State) : Host.Outcome State Fault Refusal := .next (s.atRecord fun s => s.serve 0x01 respondIdentify)

/-- LINE-SET (R143 to R146). -/
def execLineSet (s : State) : Host.Outcome State Fault Refusal := .next (s.atRecord fun s => s.serve 0x02 respondLineSet)

/-- LINE-GET (R147). -/
def execLineGet (s : State) : Host.Outcome State Fault Refusal := .next (s.atRecord fun s => s.serve 0x03 respondLineGet)

/-- LINE-RESTART (R148). -/
def execLineRestart (s : State) : Host.Outcome State Fault Refusal :=
  .next (s.atRecord fun s => s.serve 0x04 respondLineRestart)

/-- QUEUE-FLUSH (R149, R150). -/
def execQueueFlush (s : State) : Host.Outcome State Fault Refusal :=
  .next (s.atRecord fun s => s.serve 0x05 respondQueueFlush)

/-- DEFAULT-SET (R157). -/
def execDefaultSet (s : State) : Host.Outcome State Fault Refusal :=
  .next (s.atRecord fun s => s.serve 0x06 respondDefaultSet)

/-- ROUTE-INSERT (R152). -/
def execRouteInsert (s : State) : Host.Outcome State Fault Refusal :=
  .next (s.atRecord fun s => s.serve 0x07 respondRouteInsert)

/-- ROUTE-UPDATE (R153). -/
def execRouteUpdate (s : State) : Host.Outcome State Fault Refusal :=
  .next (s.atRecord fun s => s.serve 0x08 respondRouteUpdate)

/-- ROUTE-DELETE (R154). -/
def execRouteDelete (s : State) : Host.Outcome State Fault Refusal :=
  .next (s.atRecord fun s => s.serve 0x09 respondRouteDelete)

/-- ROUTE-READ (R155). -/
def execRouteRead (s : State) : Host.Outcome State Fault Refusal :=
  .next (s.atRecord fun s => s.serve 0x0A respondRouteRead)

/-- ROUTE-FIND (R156). -/
def execRouteFind (s : State) : Host.Outcome State Fault Refusal :=
  .next (s.atRecord fun s => s.serve 0x0B respondRouteFind)

/-- COUNTERS-READ (R158, R159). -/
def execCountersRead (s : State) : Host.Outcome State Fault Refusal :=
  .next (s.atRecord fun s => s.serve 0x0C respondCountersRead)

/-- NOTICE-SET (R160, R161). -/
def execNoticeSet (s : State) : Host.Outcome State Fault Refusal :=
  .next (s.atRecord fun s => s.serve 0x0D respondNoticeSet)

/-- SELF-SET (R162). -/
def execSelfSet (s : State) : Host.Outcome State Fault Refusal := .next (s.atRecord fun s => s.serve 0x0E respondSelfSet)

/-- FLUSH-ALL (R163, R164): the record's event, or the parts of it that fall at a later moment (R92; log 13). -/
def execFlushAll (s : State) : Host.Outcome State Fault Refusal :=
  .next (s.running fun s =>
    if s.flushGoesOn then s.makeParts else s.finishFlush.serve 0x0F respondFlushAll)

/-- REINIT (R137, R165). -/
def execReinit (s : State) : Host.Outcome State Fault Refusal := .next (s.atRecord fun s => s.serve 0x10 respondReinit)

end Sys2Proof.Machine
end

