-- ==== Sys2Proof/Machine/Timebase.lean ====
section
/-! DEFINITION. RESET, the deferred reset, the millisecond timebase with the expiries its ticks bring about, and the clock
edges that come while no command waits (chapter 11, R30, R137, R172). -/

namespace Sys2Proof.Machine

/-! ### One tick at one block (R180) -/

/-- One tick at a running deadline countdown (R30). -/
def Deadline.tick : Deadline → Deadline
  | .running n => .running (n - 1)
  | .stopped => .stopped

/-- One tick at a running interval timer (R172). -/
def Timer.tick : Timer → Timer
  | .running n => .running (n - 1)
  | .expired => .expired

/-- The tick reaches a block, and a countdown that it lowers to 0 expires at this event (R30, R31, R104, R172). -/
def State.tickTo (s : State) : TickTaker → State
  | .deadline x => (s.modRx x fun r => { r with deadline := r.deadline.tick }).expire x
  | .queue x => { s with buf := s.buf.ageTickets x }
  | .timer => ({ s with emitter := { s.emitter with timer := s.emitter.timer.tick } }).expireInterval

/-- The tick under way reaches a block, which is then no longer among those it has still to reach. -/
def State.reach (s : State) (k : TickTaker) : State := ({ s with owed := s.owed.erase k }).tickTo k

/-- The tick under way reaches a block if it has not yet; what earlier events made due is taken first. -/
def State.deliver (s : State) (k : TickTaker) : State := if k ∈ s.settle.owed then s.settle.reach k else s.settle

/-! ### The tick (R180) -/

/-- The divide count passes 3999: a tick is under way to all its takers. -/
def State.issue (s : State) : State := { s with divideCount := 0, owed := TickTaker.all }

/-- The tick under way reaches every block that it has not reached yet. -/
def State.finishTick (s : State) : State := (s.owed.foldl State.deliver s).settle

/-- The blocks that the next tick reaches at the step that issues it (log 6). -/
def State.takers (s : State) : List TickTaker := s.ticks.headD TickTaker.all

/-- A tick, which reaches its takers now. The tick before it has by then reached every block (log 6). -/
def State.newTick (s : State) : State :=
  s.takers.foldl State.deliver ({ s with ticks := s.ticks.tail }).finishTick.issue

/-- A tick command: where the tick under way has still to reach all of the takers, the same tick goes on to them; else a
new tick is issued (log 6). -/
def State.tick (s : State) : State :=
  if s.takers ≠ [] ∧ ∀ k ∈ s.takers, k ∈ s.owed then s.takers.foldl State.deliver { s with ticks := s.ticks.tail }
  else s.newTick

/-- The tick under way is the expiry of a line's deadline: it has still to reach the receiver, and the countdown is at
1 (R30). A countdown that stands at 0, which no run brings about, has expired. -/
def State.deadlineEnds (s : State) (x : Line) : Bool :=
  (s.rx.get x).deadline = .running 0 || ((s.rx.get x).deadline = .running 1 && TickTaker.deadline x ∈ s.owed)

/-- The tick under way is the expiry of the interval timer (R172), as for `deadlineEnds`. -/
def State.timerEnds (s : State) : Bool :=
  s.emitter.timer = .running 0 || (s.emitter.timer = .running 1 && TickTaker.timer ∈ s.owed)

/-! ### Clock edges -/

/-- One rising edge of REFCLK (R180). -/
def State.refclkEdge (s : State) : State :=
  if s.divideCount < Config.divideMax then { s with divideCount := s.divideCount + 1 } else s.newTick

/-- One clock edge (R179, R180). -/
def State.takeEdge (s : State) : Edge → State
  | .refclk => s.refclkEdge
  | .tc x hold further => s.tcEdge x hold further

/-- The step of an empty command queue: one clock edge, of REFCLK where none is listed; while RESET is high the clocks
have no effect (R181; logs 7 and 22). -/
def State.idle (s : State) : State :=
  ({ s with edges := s.edges.tail }).running fun t => t.takeEdge (s.edges.headD .refclk)

/-! ### RESET -/

/-- While RESET is high TDx is held high (R181). -/
def State.holdReset (s : State) : State :=
  { s with resetHigh := true, tx := s.tx.map fun e => { e with out := .heldHigh, place := 0, tdx := true } }

/-- The fill pair that follows a reset: its first bit comes with the first falling edge of TCx (R120, R181). -/
def Egress.startPair (e : Egress) (c : LineConfig) : Egress := { e with out := .pair c.syn1 c.syn2, place := 0 }

/-- The part starts at the falling edge of RESET: each transmitter begins a fill pair, and the Timebase counts from 0
(R181). -/
def State.start (s : State) : State :=
  { s with
    resetHigh := false
    divideCount := 0
    tx := ⟨s.tx.a.startPair s.config.a, s.tx.b.startPair s.config.b, s.tx.l.startPair s.config.l⟩ }

/-! ### The commands -/

/-- HARDWARE_RESET (R181). -/
def execHardwareReset (s : State) : Host.Outcome State Fault Refusal := .next s.resetPart.holdReset

/-- RESET_NEGATED (R181): the falling edge of a RESET that is high. -/
def execResetNegated (s : State) : Host.Outcome State Fault Refusal := .next (if s.resetHigh then s.start else s)

/-- TIMEBASE_TICK (R180): the divide count passes 3999, whatever edges it stood for before (log 6). -/
def execTimebaseTick (s : State) : Host.Outcome State Fault Refusal :=
  .next (s.running fun s => s.tick)

/-- DEADLINE_EXPIRY (R30, R31): the tick reaches a countdown at its last millisecond; where it does not, there is no
expiry (R33; logs 1 and 5). -/
def execDeadlineExpiry (x : Line) (s : State) : Host.Outcome State Fault Refusal :=
  .next (s.running fun s => if s.deadlineEnds x then s.reach (.deadline x) else s)

/-- INTERVAL_TIMER_EXPIRY (R172), as for DEADLINE_EXPIRY. -/
def execIntervalTimerExpiry (s : State) : Host.Outcome State Fault Refusal :=
  .next (s.running fun s => if s.timerEnds then s.reach .timer else s)

/-- REINIT_RESET (R137): the hardware-reset sequence without the held interval (R181). -/
def execReinitReset (s : State) : Host.Outcome State Fault Refusal :=
  .next (if s.resetHigh then s else s.reinitIfDue)

end Sys2Proof.Machine
end

