-- ==== Sys2Proof/Machine/Transmitters.lean ====
section
/-! DEFINITION. The commands of the line transmitters (chapter 6). -/

namespace Sys2Proof.Machine

/-- FILL_PAIR_END (R107). -/
def execFillPairEnd (x : Line) (hold : Bool) (further : List Bool) (s : State) : Host.Outcome State Fault Refusal :=
  .next (s.running fun s => s.endFillPair x hold further)

/-- GAP_PAIR_END (R115). -/
def execGapPairEnd (x : Line) (hold : Bool) (further : List Bool) (s : State) : Host.Outcome State Fault Refusal :=
  .next (s.running fun s => s.endGapPair x hold further)

/-- BLOCK_SENT (R114). -/
def execBlockSent (x : Line) (s : State) : Host.Outcome State Fault Refusal :=
  .next (s.running fun s => s.endBlockSent x)

end Sys2Proof.Machine
end

