-- ==== Sys2Proof/Machine/Dispatch.lean ====
section
/-! DEFINITION. One arm per command: its effect on everything but the command queue. -/

namespace Sys2Proof.Machine

def exec (i : Instr) (s : State) : Host.Outcome State Fault Refusal :=
  match i with
  | .hardwareReset => Sys2Proof.Machine.execHardwareReset s
  | .resetNegated => Sys2Proof.Machine.execResetNegated s
  | .timebaseTick => Sys2Proof.Machine.execTimebaseTick s
  | .huntMatch line bit => Sys2Proof.Machine.execHuntMatch line bit s
  | .octetInConfirm line octet => Sys2Proof.Machine.execOctetInConfirm line octet s
  | .octetInGap line octet => Sys2Proof.Machine.execOctetInGap line octet s
  | .octetInGapSyn line octet => Sys2Proof.Machine.execOctetInGapSyn line octet s
  | .headerOctet line octet => Sys2Proof.Machine.execHeaderOctet line octet s
  | .headerCompletion line octet => Sys2Proof.Machine.execHeaderCompletion line octet s
  | .textOctet line octet => Sys2Proof.Machine.execTextOctet line octet s
  | .checkOctet line octet => Sys2Proof.Machine.execCheckOctet line octet s
  | .blockCompletion line octet => Sys2Proof.Machine.execBlockCompletion line octet s
  | .deadlineExpiry line => Sys2Proof.Machine.execDeadlineExpiry line s
  | .fillPairEnd line hold further => Sys2Proof.Machine.execFillPairEnd line hold further s
  | .gapPairEnd line hold further => Sys2Proof.Machine.execGapPairEnd line hold further s
  | .blockSent line => Sys2Proof.Machine.execBlockSent line s
  | .sessionTake => Sys2Proof.Machine.execSessionTake s
  | .malformedRecord => Sys2Proof.Machine.execMalformedRecord s
  | .walkTruncation => Sys2Proof.Machine.execWalkTruncation s
  | .skippedRecord => Sys2Proof.Machine.execSkippedRecord s
  | .unknownRequestRecord => Sys2Proof.Machine.execUnknownRequestRecord s
  | .identify => Sys2Proof.Machine.execIdentify s
  | .lineSet => Sys2Proof.Machine.execLineSet s
  | .lineGet => Sys2Proof.Machine.execLineGet s
  | .lineRestart => Sys2Proof.Machine.execLineRestart s
  | .queueFlush => Sys2Proof.Machine.execQueueFlush s
  | .defaultSet => Sys2Proof.Machine.execDefaultSet s
  | .routeInsert => Sys2Proof.Machine.execRouteInsert s
  | .routeUpdate => Sys2Proof.Machine.execRouteUpdate s
  | .routeDelete => Sys2Proof.Machine.execRouteDelete s
  | .routeRead => Sys2Proof.Machine.execRouteRead s
  | .routeFind => Sys2Proof.Machine.execRouteFind s
  | .countersRead => Sys2Proof.Machine.execCountersRead s
  | .noticeSet => Sys2Proof.Machine.execNoticeSet s
  | .selfSet => Sys2Proof.Machine.execSelfSet s
  | .flushAll => Sys2Proof.Machine.execFlushAll s
  | .reinit => Sys2Proof.Machine.execReinit s
  | .sessionEnd => Sys2Proof.Machine.execSessionEnd s
  | .reinitReset => Sys2Proof.Machine.execReinitReset s
  | .intervalTimerExpiry => Sys2Proof.Machine.execIntervalTimerExpiry s
  | .noticeBuild => Sys2Proof.Machine.execNoticeBuild s
  | .badLengthRecord => Sys2Proof.Machine.execBadLengthRecord s
  | .huntComparisonNoMatch line bit => Sys2Proof.Machine.execHuntComparisonNoMatch line bit s

end Sys2Proof.Machine
end

