-- ==== Sys2Proof/Safety.lean ====
section
/-! DEFINITION. What claims about the part are stated in: the parts of the state a step may change, and the laws that
every step keeps. -/

namespace Sys2Proof.Machine

/-! ### Frames -/

/-- The separately named parts of the state. -/
inductive Part where
  | signals | owed | unflushed | self | queue | edges | ticks | gaps | flushes | awaits | arrivals
  | config (x : Line) | rx (x : Line) | tx (x : Line)
  | cells | pools | descs | tickets
  | slots | defaults
  | engine | emitter
  | rxCount (x : Line) | txCount (x : Line) | engineCount
  deriving DecidableEq, Repr

/-- A part reads in `t` as it read in `s`; cell contents octet by octet. -/
def Part.same (s t : State) : Part → Prop
  | .signals => t.resetHigh = s.resetHigh ∧ t.divideCount = s.divideCount
  | .owed => t.owed = s.owed
  | .unflushed => t.unflushed = s.unflushed
  | .self => t.self = s.self
  | .queue => t.pending = s.pending
  | .edges => t.edges = s.edges
  | .ticks => t.ticks = s.ticks
  | .gaps => t.gaps = s.gaps
  | .flushes => t.flushes = s.flushes
  | .awaits => t.awaits = s.awaits
  | .arrivals => t.arrivals = s.arrivals
  | .config x => t.config.get x = s.config.get x
  | .rx x => t.rx.get x = s.rx.get x
  | .tx x => t.tx.get x = s.tx.get x
  | .cells => ∀ a, t.buf.mem.read a = s.buf.mem.read a
  | .pools =>
    t.buf.freeCells = s.buf.freeCells ∧ t.buf.freePart = s.buf.freePart ∧ t.buf.freeDescs = s.buf.freeDescs ∧
    t.buf.freeTickets = s.buf.freeTickets ∧ t.buf.hwCells = s.buf.hwCells ∧ t.buf.hwDescs = s.buf.hwDescs ∧
    t.buf.lowArmed = s.buf.lowArmed
  | .descs => t.buf.descs = s.buf.descs
  | .tickets => t.buf.tickets = s.buf.tickets
  | .slots => t.routes.slots = s.routes.slots
  | .defaults => t.routes.defaults = s.routes.defaults
  | .engine => t.engine = s.engine
  | .emitter => t.emitter = s.emitter
  | .rxCount x => t.count.rx.get x = s.count.rx.get x
  | .txCount x => t.count.tx.get x = s.count.tx.get x
  | .engineCount => t.count.engine = s.count.engine

/-- Nothing but the parts listed differs. -/
def State.changesOnly (s t : State) (ps : List Part) : Prop := ∀ p : Part, p ∉ ps → p.same s t

/-! ### Where a step is taken -/

/-- The running part, nothing due, the receiver of a line in a state and at an octet boundary. -/
def State.hears (s : State) (x : Line) (st : RxState) : Prop :=
  s.quiet = true ∧ (s.rx.get x).state = st ∧ (s.rx.get x).align = some 0

/-- The items of R12 that are absent outside a block. -/
def Receiver.outside (r : Receiver) : Prop :=
  r.disposition = none ∧ r.crc = none ∧ r.heldCheck = none ∧ r.filling = none ∧ r.cell = none ∧ r.deadline = .stopped

/-- The receiver with its block's items absent (R12, R34). -/
def Receiver.emptied (r : Receiver) : Receiver :=
  { r with disposition := none, crc := none, heldCheck := none, filling := none, cell := none, deadline := .stopped }

/-- The receiver in HUNT, its block's items absent and its alignment not fixed; the bit history is kept (R14, R32). -/
def Receiver.hunting (r : Receiver) : Receiver := { r.emptied with state := .hunt, ins := false, align := none }

/-- The receiver after header octet 1 to 5 or a text octet, storage aside (R21, R27). -/
def Receiver.took (r : Receiver) (o : Byte) : Receiver :=
  let last : Bool := r.state = .body ∧ r.position + 1 = wordOf (r.header.getD 4 0) (r.header.getD 5 0)
  { r with
    history := octetBits o
    crc := r.crc.map fun k => crcOctet k o
    header := if r.state = .header then r.header ++ [o] else r.header
    position := if last then 0 else r.position + 1
    state := if last then .check else r.state
    ins := if last then true else r.ins }

/-- The receiver after the sixth header octet of a well-formed header, storage and disposition aside (R24, R26). -/
def Receiver.headed (r : Receiver) (o : Byte) : Receiver :=
  { r with
    history := octetBits o
    crc := r.crc.map fun k => crcOctet k o
    header := r.header ++ [o]
    position := 0
    state := if wordOf (r.header.getD 4 0) o = 0 then .check else .body
    ins := true }

/-- The receiver after a block's second check octet (R28, R29). -/
def Receiver.completed (r : Receiver) (o : Byte) : Receiver :=
  { r.emptied with history := octetBits o, position := 2, state := .gap, ins := true }

/-- The command brings header octet 1 to 5 or a text octet to the receiver of a quiet part. -/
def State.fills (s : State) (i : Instr) (x : Line) (o : Byte) : Prop :=
  (i = .headerOctet x o ∧ s.hears x .header ∧ (s.rx.get x).position < 5) ∨ (i = .textOctet x o ∧ s.hears x .body)

/-- A receiver that stores its block in general descriptor `d`, one of the 128. -/
def State.stores (s : State) (x : Line) (d : Nat) : Prop :=
  (s.rx.get x).filling = some d ∧ d < 126 ∧ s.buf.descs.length = 128

/-- The sixth header octet reaches a receiver that stores its block in `d` and has room for it in cell `c`. -/
def State.endsHeader (s : State) (x : Line) (d c k : Nat) : Prop :=
  s.hears x .header ∧ (s.rx.get x).position = 5 ∧ (s.rx.get x).header.length = 5 ∧ s.stores x d ∧
    (s.rx.get x).cell = some ⟨c, k⟩ ∧ k < 64 ∧ c < 512 ∧ s.buf.mem.wf = true

/-- The second check octet reaches a receiver, and the check it completes is good or not (R4). -/
def State.endsBlock (s : State) (x : Line) (o : Byte) (good : Bool) : Prop :=
  s.hears x .check ∧ (s.rx.get x).position = 1 ∧
    ∃ k h, (s.rx.get x).crc = some k ∧ (s.rx.get x).heldCheck = some h ∧ (good = true ↔ k.toNat = h.toNat * 256 + o.toNat)

/-! ### What a returned block leaves -/

/-- A descriptor of the general part is back in the pools with its whole chain, at the tails (R37, R39, R40, R47), and no
other descriptor is touched; a rise of the free cells from 96 or fewer to 97 or more arms the flag (R53). -/
def Buffer.returned (b b' : Buffer) (d : Nat) : Prop :=
  b'.freeDescs = b.freeDescs ++ [d] ∧ b'.freeCells = b.freeCells ++ (b.desc d).chain ∧
  (b'.desc d).state = .free ∧ (b'.desc d).chain = [] ∧ (b'.desc d).tickets = 0 ∧ (b'.desc d).bound = .none ∧
  (∀ n, n ≠ d → b'.desc n = b.desc n) ∧
  b'.lowArmed = (b.lowArmed || decide (b.freeCells.length ≤ 96 ∧ 96 < b'.freeCells.length)) ∧
  b'.freePart = b.freePart ∧ b'.freeTickets = b.freeTickets ∧ b'.tickets = b.tickets ∧ b'.hwCells = b.hwCells ∧
  b'.hwDescs = b.hwDescs

/-- What the Route Table holds in a slot after a bind to it is released (R65, R66). -/
def Slot.released : Slot → Slot
  | .free => .free
  | .active e => .active { e with binds := e.binds - 1 }
  | .retiring e => if e.binds ≤ 1 then .free else .retiring { e with binds := e.binds - 1 }

/-- The bind of descriptor `d` is released: its slot alone changes; a default route changes nothing (R65). -/
def State.bindReleased (s t : State) (d : Nat) : Prop :=
  match (s.buf.desc d).bound with
  | .slot n => ∀ m, t.routes.slot m = if m = n then (s.routes.slot n).released else s.routes.slot m
  | .default _ | .none => t.routes.slots = s.routes.slots

/-- BUFFER-RECOVERED, where freeing descriptor `d` takes the free cells past 96 while the flag is disarmed (R53). -/
def Buffer.freedEvents (b : Buffer) (d : Nat) : List Event :=
  if b.lowArmed = false ∧ b.freeCells.length ≤ 96 ∧ 96 < b.freeCells.length + (b.desc d).chain.length then
    [.bufferRecovered]
  else []

/-- The events the return of descriptor `d` raises: ROUTE-FREED for a RETIRING slot left without binds (R66), and those
of its cells. -/
def State.returnEvents (s : State) (d : Nat) : List Event :=
  (match (s.buf.desc d).bound with
    | .slot n =>
      match s.routes.slot n with
      | .retiring e => if e.binds ≤ 1 then [.routeFreed n] else []
      | .free | .active _ => []
    | .default _ | .none => []) ++
  s.buf.freedEvents d

/-- What the receiver of `x` holds goes back, and then the events `es` are raised: a STORE block's descriptor, cells and
bind (R34); a receiver without a descriptor has nothing to return. -/
def State.givesBack (s t : State) (x : Line) (es : List Event) : Prop :=
  match (s.rx.get x).filling with
  | none => t.buf = s.buf ∧ t.routes = s.routes ∧ t.emitter = s.emitter.hear es
  | some d =>
    d < 126 → s.buf.descs.length = 128 →
      s.buf.returned t.buf d ∧ s.bindReleased t d ∧ t.emitter = s.emitter.hear (s.returnEvents d ++ es)

/-- The deadline of the receiver of `x` ends its block (R31), at the event at which the tick under way, if it has still to
come to that receiver, reaches it (R30). -/
def State.expires (s t : State) (x : Line) : Prop :=
  t.owed = s.owed.erase (.deadline x) ∧ t.rx.get x = (s.rx.get x).hunting ∧
    t.count.rx.get x =
      { s.count.rx.get x with
        deadlineAbandons := min ((s.count.rx.get x).deadlineAbandons + 1) 4294967295
        syncLosses := min ((s.count.rx.get x).syncLosses + 1) 4294967295 } ∧
    s.givesBack t x [.syncLost x] ∧
    s.changesOnly t [.owed, .rx x, .rxCount x, .pools, .descs, .slots, .emitter]

/-- The RX group after a good block of text length `len` (R90). -/
def RxCounters.good (c : RxCounters) (len : Nat) : RxCounters :=
  { c with goodBlocks := min (c.goodBlocks + 1) 4294967295, goodOctets := min (c.goodOctets + (len + 6)) 4294967295 }

/-- An entry that counts a block of text length `len` as accepted (R67). -/
def Entry.counted (e : Entry) (len : Nat) : Entry :=
  { e with blocks := min (e.blocks + 1) 4294967295, octets := min (e.octets + (len + 6)) 4294967295 }

/-! ### Selections and sessions -/

/-- The command brings a selection event to the transmitter of a quiet part: the end of a fill pair in FILL, or of the
last gap pair in GAP (R107). -/
def State.selects (s : State) (i : Instr) (x : Line) (hold : Bool) (further : List Bool) : Prop :=
  s.quiet = true ∧
    ((i = .fillPairEnd x hold further ∧ (s.tx.get x).state = .fill) ∨
      (i = .gapPairEnd x hold further ∧ (s.tx.get x).state = .gap ∧ (s.tx.get x).gapLeft ≤ 1))

/-- The level TDx is left at by a unit sent to its last bit, the most significant of its last octet (R179); held high it
is high (R181). -/
def LineOut.lastLevel : LineOut → Bool
  | .heldHigh => true
  | .pair _ syn2 => syn2.getLsbD 7
  | .block os => (os.getLastD 0).getLsbD 7

/-- The transmitter with the unit under way sent to its last bit (R179). -/
def Egress.sentOut (e : Egress) : Egress := { e with place := 0, tdx := e.out.lastLevel }

/-- The transmitter at its selection: the pair has been sent, and the last gap pair is counted down (R115). -/
def Egress.atSelection (e : Egress) : Egress := { e.sentOut with gapLeft := if e.state = .gap then 0 else e.gapLeft }

/-- What a block of descriptor `d` is on TDx (R2, R111). -/
def Buffer.onTheLine (b : Buffer) (d : Nat) : List Byte :=
  let v := b.desc d
  let covered := [v.txDst, v.src, v.kind, v.seq, hiOctet v.len, loOctet v.len] ++ b.text d
  [0x5A] ++ covered ++ [hiOctet (crcOf covered).toNat, loOctet (crcOf covered).toNat]

/-- Descriptor `d` once the tickets `ks` are released: it counts those that name it less, and a QUEUED one whose last
ticket is among them is freed with its chain (R45, R46). -/
def Buffer.afterReleases (b : Buffer) (ks : List Nat) (d : Nat) : Descriptor :=
  let v := b.desc d
  let n := (ks.filter fun k => (b.ticket k).desc = d).length
  if v.state = .queued ∧ 1 ≤ n ∧ v.tickets ≤ n then { v with state := .free, chain := [], tickets := 0, bound := .none }
  else { v with tickets := v.tickets - n }

/-- Free cells that were `b`'s and are now `b'`'s after a return: the flag is armed where they rose past 96 (R53). -/
def Buffer.armed (b b' : Buffer) : Bool := b.lowArmed || decide (b.freeCells.length ≤ 96 ∧ 96 < b'.freeCells.length)

/-- BUFFER-RECOVERED is raised where a return takes the free cells past 96 while the flag is disarmed (R53). -/
def State.recovered (s t : State) : Prop :=
  t.emitter =
    if s.buf.lowArmed = false ∧ s.buf.freeCells.length ≤ 96 ∧ 96 < t.buf.freeCells.length then
      s.emitter.hear [.bufferRecovered]
    else s.emitter

/-- Descriptor `d` is freed where `freed`, and no other is touched: its whole chain goes to the tail of its part's free
list, and a general descriptor to the tail of its own (R37, R40, R46, R47). -/
def State.frees (s t : State) (d : Nat) (freed : Bool) : Prop :=
  let v := s.buf.desc d
  t.buf.freeCells = s.buf.freeCells ++ (if freed ∧ d < 126 then v.chain else []) ∧
    t.buf.freeDescs = s.buf.freeDescs ++ (if freed ∧ d < 126 then [d] else []) ∧
    t.buf.freePart = s.buf.freePart ++ (if freed ∧ 126 ≤ d then v.chain else []) ∧
    (freed = true → t.buf.desc d = { v with state := .free, chain := [], tickets := 0, bound := .none }) ∧
    (∀ n, n ≠ d → t.buf.desc n = s.buf.desc n) ∧ t.buf.lowArmed = s.buf.armed t.buf ∧ s.recovered t ∧
    t.buf.hwCells = s.buf.hwCells ∧ t.buf.hwDescs = s.buf.hwDescs

/-- Ticket `k` is released (R45): FREE, a general one at the tail of its list, its descriptor counting one less or, QUEUED
and at its last, freed (R46); a reply so freed otherwise than by being sent is lost (R135). -/
def State.releases (s t : State) (k : Nat) (sent : Bool) : Prop :=
  let d := (s.buf.ticket k).desc
  let v := s.buf.desc d
  let last : Bool := v.state = .queued ∧ v.tickets ≤ 1
  (∀ n, t.buf.ticket n = if n = k then { s.buf.ticket k with state := .free } else s.buf.ticket n) ∧
    t.buf.freeTickets = s.buf.freeTickets ++ (if k < 190 then [k] else []) ∧
    s.frees t d last ∧ (last = false → t.buf.desc d = { v with tickets := v.tickets - 1 }) ∧
    t.count.engine =
      if last ∧ v.origin = .reply ∧ sent = false then
        { s.count.engine with repliesLost := min (s.count.engine.repliesLost + 1) 4294967295 }
      else s.count.engine

/-- The tickets of a list are released with cause flush, one after another (R116), and nothing else is done. -/
def State.flushesTickets (s t : State) : List Nat → Prop
  | [] => t = s
  | k :: ks =>
    ∃ m, s.releases m k false ∧ s.changesOnly m [.tickets, .pools, .descs, .emitter, .engineCount] ∧
      State.flushesTickets m t ks

/-- The descriptors of a list are freed, one after another (R138), and nothing else is done. -/
def State.discards (s t : State) : List Nat → Prop
  | [] => t = s
  | d :: ds =>
    ∃ m, s.frees m d true ∧ m.buf.freeTickets = s.buf.freeTickets ∧ s.changesOnly m [.pools, .descs, .emitter] ∧
      State.discards m t ds

/-- The head that R108 chooses with HLDx negated, its class, and the run count once it is sent: an URGENT head where
NORMAL is empty or the run is below 8, a NORMAL head where URGENT is empty or the run is 8. -/
def Egress.heads (e : Egress) (c : QClass) (t run : Nat) : Prop :=
  (c = .urgent ∧ (∃ rest, e.urgent = t :: rest) ∧
    ((e.normal = [] ∧ run = 1) ∨ (e.normal ≠ [] ∧ e.run < 8 ∧ run = e.run + 1))) ∨
  (c = .normal ∧ (∃ rest, e.normal = t :: rest) ∧ (e.urgent = [] ∨ 8 ≤ e.run) ∧ run = 0)

/-- The cells of the reply and the free partition cells are distinct cells of the buffer, the chain holds what `n` octets
of reply text need, and with the free cells it has room for `m` more (R50, R132). -/
def Buffer.replyReady (b : Buffer) (n m : Nat) : Prop :=
  b.mem.wf = true ∧ b.descs.length = 128 ∧ ((b.desc 126).chain ++ b.freePart).Nodup ∧
    (∀ c ∈ (b.desc 126).chain ++ b.freePart, c < 512) ∧ (b.desc 126).chain.length = (6 + n + 63) / 64 ∧
    6 + n + m ≤ 64 * ((b.desc 126).chain.length + b.freePart.length)

/-- The reply text written so far: `n` octets from stored octet 7 of the reply (R132). -/
def Buffer.replyText (b : Buffer) (n : Nat) : List Byte :=
  (List.range n).map fun i => b.storedOctet Config.replyDesc (6 + i)

/-- The address of stored octet `k` of the reply. -/
def Buffer.replyAddress (b : Buffer) (k : Nat) : Nat := 64 * (b.desc Config.replyDesc).chain.getD (k / 64) 0 + k % 64

/-- `n` octets of the reply are written from stored octet `k` on, and at no other address; the cells they need have
left the head of the partition's free list for the tail of the chain (R50, R132), and the buffer is else as before. -/
def State.writesReply (s t : State) (k n : Nat) : Prop :=
  (∃ cells, s.buf.freePart = cells ++ t.buf.freePart ∧
    t.buf.descs = s.buf.descs.modify Config.replyDesc fun v => { v with chain := v.chain ++ cells }) ∧
  t.buf = { s.buf with mem := t.buf.mem, freePart := t.buf.freePart, descs := t.buf.descs } ∧
  ∀ a, (∀ j, k ≤ j → j < k + n → t.buf.replyAddress j ≠ a) → t.buf.mem.read a = s.buf.mem.read a

/-- A session is walking, the record before has had its whole effect, and the next record has this fate (R127, R128). -/
def State.walks (s : State) (ss : Session) (f : Fate) : Prop :=
  s.quiet = true ∧ s.unflushed = [] ∧ s.engine.session = some ss ∧ ss.outcome = .walking ∧ s.fateOf ss = f

/-- The request of code `code` with these parameters is at the walk position and reaches step 7 (R128). -/
def State.requested (s : State) (ss : Session) (h : RecordHead) (code : Byte) (params : List Byte) : Prop :=
  s.walks ss (.request h params) ∧ h.code = code

/-- The receiver of `x` after a line restart of part `s` (R32): in HUNT, whatever its block held returned, SYNC-LOST
raised where it was in sync. -/
def State.restarted (s t : State) (x : Line) : Prop :=
  t.rx.get x = (s.rx.get x).hunting ∧
    s.givesBack t x (if (s.rx.get x).state.inSync then [.syncLost x] else []) ∧
    s.changesOnly t [.rx x, .pools, .descs, .slots, .emitter]

/-- The valid route bodies of 6 octets and what they mean (R151). -/
def Route.validBody (bs : List Byte) (r : Route) (window : Nat) : Prop :=
  (∃ e c v w : Byte, bs = [0, e, c, 1, v, w] ∧ (1 ≤ e.toNat ∧ e.toNat ≤ 7) ∧ c.toNat ≤ 1 ∧ w.toNat ≤ 64 ∧
    window = w.toNat ∧
    r = .forward ⟨e.getLsbD 0, e.getLsbD 1, e.getLsbD 2⟩ (if c = 1 then .urgent else .normal) (some v)) ∨
  (∃ e c w : Byte, bs = [0, e, c, 0, 0, w] ∧ (1 ≤ e.toNat ∧ e.toNat ≤ 7) ∧ c.toNat ≤ 1 ∧ w.toNat ≤ 64 ∧
    window = w.toNat ∧
    r = .forward ⟨e.getLsbD 0, e.getLsbD 1, e.getLsbD 2⟩ (if c = 1 then .urgent else .normal) none) ∨
  (bs = [1, 0, 0, 0, 0, 0] ∧ r = .discard ∧ window = 0)

/-- The valid default route bodies of 3 octets and what they mean (R151). -/
def DefaultRoute.validBody (bs : List Byte) (r : DefaultRoute) : Prop :=
  (∃ e c : Byte, bs = [0, e, c] ∧ (1 ≤ e.toNat ∧ e.toNat ≤ 7) ∧ c.toNat ≤ 1 ∧
    r = .forward ⟨e.getLsbD 0, e.getLsbD 1, e.getLsbD 2⟩ (if c = 1 then .urgent else .normal)) ∨
  (bs = [1, 0, 0] ∧ r = .discard)

/-- The valid line configuration records of 12 octets and what they mean (section 1.7.3, R143). -/
def LineConfig.validRecord (bs : List Byte) (c : LineConfig) : Prop :=
  ∃ s1 s2 g d1 d0 a1 a0 u1 u0 n1 n0 p : Byte, bs = [s1, s2, g, d1, d0, a1, a0, u1, u0, n1, n0, p] ∧
    s1 ≠ 0x5A ∧ s1 ≠ s2 ∧ (1 ≤ g.toNat ∧ g.toNat ≤ 15) ∧ wordOf d1 d0 ≤ 1000 ∧ wordOf a1 a0 ≤ 30000 ∧
    (17 ≤ wordOf u1 u0 ∧ wordOf u1 u0 ≤ 494) ∧ (17 ≤ wordOf n1 n0 ∧ wordOf n1 n0 ≤ 494) ∧ (p = 0 ∨ p = 1) ∧
    c = ⟨s1, s2, g.toNat, wordOf d1 d0, wordOf a1 a0, wordOf u1 u0, wordOf n1 n0, decide (p = 1)⟩

/-! ### Laws that every step keeps -/

/-- The cell contents are in canonical form. -/
def State.MemoryCanonical (s : State) : Prop := s.buf.mem.wf = true

/-- Each receiver's items agree with its state: INSx (R13), the disposition and the descriptor in fill (R12), the
deadline, which runs inside a block only and never stands at 0 (R30; log 5), the alignment and the bit history (R12). -/
def State.ReceiverLaw (s : State) : Prop :=
  ∀ x, (s.rx.get x).ins = (s.rx.get x).state.inSync ∧
    ((s.rx.get x).disposition.isSome = true ↔
      (s.rx.get x).state = .header ∨ (s.rx.get x).state = .body ∨ (s.rx.get x).state = .check) ∧
    ((s.rx.get x).filling.isSome = true ↔ (s.rx.get x).disposition = some .store) ∧
    ((s.rx.get x).deadline ≠ .stopped → (s.rx.get x).disposition.isSome = true) ∧
    (s.rx.get x).deadline ≠ .running 0 ∧
    ((s.rx.get x).crc.isSome = true ↔ (s.rx.get x).disposition.isSome = true) ∧
    ((s.rx.get x).cell.isSome = true → (s.rx.get x).disposition = some .store) ∧
    ((s.rx.get x).heldCheck.isSome = true → (s.rx.get x).state = .check) ∧
    ((s.rx.get x).align = none ↔ (s.rx.get x).state = .hunt) ∧ (s.rx.get x).history.length ≤ 8

/-- Every line configuration keeps the ranges of section 1.7.3, so no sync pair breaks R1. -/
def State.ConfigLegal (s : State) : Prop := ∀ x, (s.config.get x).legal = true

/-- Some line is management-permitted (R144). -/
def State.SomePermitted (s : State) : Prop := ∃ x, (s.config.get x).permitted = true

/-- The run count is at most 8 (R108), the gap pairs remaining at most 15 (section 6.1), and TDx stands before the last
bit of the unit under way is presented, or at the unit's beginning (R179). -/
def State.TransmitterBounds (s : State) : Prop :=
  ∀ x, (s.tx.get x).run ≤ 8 ∧ (s.tx.get x).gapLeft ≤ 15 ∧
    ((s.tx.get x).place = 0 ∨ (s.tx.get x).place < 8 * (s.tx.get x).out.octets.length)

/-- The interval is 10 to 10000 ms, and a running interval timer has 1 to 10000 ms left (R160, R169, R172). -/
def State.EmitterBounds (s : State) : Prop :=
  (10 ≤ s.emitter.interval ∧ s.emitter.interval ≤ 10000) ∧
    ∀ n, s.emitter.timer = .running n → 1 ≤ n ∧ n ≤ 10000

/-- A tick under way has each of its takers still to reach at most once (R180). -/
def State.TickLaw (s : State) : Prop := s.owed.Nodup ∧ s.divideCount ≤ 3999

/-- No two ACTIVE slots have the same key (R59). -/
def State.KeysUnique (s : State) : Prop :=
  ∀ n m e f, s.routes.slot n = .active e → s.routes.slot m = .active f → e.keyLine = f.keyLine →
    e.keyDst = f.keyDst → n = m

/-- At most 4 management blocks wait (R91); a session is present in EXECUTING and absent in IDLE (R122), and while a
FLUSH-ALL has parts to make, each at most once (R127); at most 16 results are written, and the reply keeps within its room:
374 octets but for a closing MALFORMED record, 378 with it (R128, R130). -/
def State.EngineLaw (s : State) : Prop :=
  s.unflushed.Nodup ∧ (s.unflushed ≠ [] → s.engine.session.isSome = true) ∧
  s.engine.queue.length ≤ 4 ∧ (s.engine.state = .idle → s.engine.session = none) ∧
  (s.engine.state = .executing → s.engine.session.isSome = true) ∧
  ∀ ss, s.engine.session = some ss →
    ss.results ≤ 16 ∧ (ss.outcome ≠ .malformed → ss.replyLen ≤ 374) ∧ ss.replyLen ≤ 378

/-- How often a general cell stands on the general free list and in the chains of descriptors 0 to 125. -/
def Buffer.generalCount (b : Buffer) (c : Nat) : Nat :=
  b.freeCells.count c + ((b.descs.take 126).map fun v => v.chain.count c).sum

/-- How often a partition cell stands on the partition free list and in the chains of descriptors 126 and 127. -/
def Buffer.partCount (b : Buffer) (c : Nat) : Nat :=
  b.freePart.count c + ((b.descs.drop 126).map fun v => v.chain.count c).sum

/-- Every general cell is on the general free list or in the chain of exactly one general descriptor, and not both;
likewise every partition cell (R37); free and filled general descriptors are numbers 0 to 125 (R39, R12). -/
def State.CellsAccounted (s : State) : Prop :=
  s.buf.descs.length = 128 ∧ (∀ d ∈ s.buf.freeDescs, d < 126) ∧
  (∀ x d, (s.rx.get x).filling = some d → d < 126) ∧
  ∀ c, s.buf.generalCount c = (if c < 494 then 1 else 0) ∧
    s.buf.partCount c = (if 494 ≤ c ∧ c < 512 then 1 else 0)

end Sys2Proof.Machine
end

