-- ==== Sys2Proof/Certificates/Slice0/Obligations.lean ====
section
/-! DEFINITION. The statements about the part, for the provers. A hypothesis `s.quiet`, `s.hears` or `s.walks` says that
RESET is low and no forced step is due (log 3); DueStepsComeFirst reduces every other state to that case. -/

open Sys2Proof Sys2Proof.Machine

/-! ### The queue, and the steps that are due -/

/-- A step takes the command at the front of the queue and runs it on the state with the queue's rest. -/
def Obligations.StepRunsFrontCommand : Prop :=
  ∀ (c : Instr) (s : State), step { s with pending := c :: s.pending } = exec c s

/-- Every command answers a next state, in every state, and leaves the commands and edges that wait as they are. On an
empty queue a step is one clock edge (the model's choice, logs 7 and 22): a REFCLK edge where none is listed, which counts
or issues a tick as TIMEBASE_TICK does (R180; the tick before it reaches its last blocks first, log 6), or a falling edge
of a TCx, at which TDx presents the next bit of its unit, each octet least significant bit first, and at whose last
bit the unit ends (R179). While RESET is high the edge has no effect. -/
def Obligations.EveryStepAnswersANextState : Prop :=
  (∀ (c : Instr) (s : State), ∃ t, exec c s = .next t ∧ t.pending = s.pending ∧ t.edges = s.edges) ∧
  ∀ s : State, s.pending = [] →
    let s1 := { s with edges := s.edges.tail }
    (s.resetHigh = true → step s = .next s1) ∧
    (s.quiet = true → s.edges.headD .refclk = .refclk →
      (s.divideCount < 3999 → step s = .next { s1 with divideCount := s.divideCount + 1 }) ∧
      (3999 ≤ s.divideCount → s.owed = [] → step s = exec .timebaseTick s1) ∧
      (3999 ≤ s.divideCount → s.owed ≠ [] →
        ∃ t, exec .timebaseTick { s1 with ticks := s.owed :: s.ticks } = .next t ∧ step s = exec .timebaseTick t)) ∧
    ∀ (x : Line) (hold : Bool) (further : List Bool), s.quiet = true → s.edges.head? = some (.tc x hold further) →
      let e := s.tx.get x
      (e.place + 1 < 8 * e.out.octets.length →
        step s = .next
          { s1 with
            tx := s.tx.set x
              { e with place := e.place + 1, tdx := (e.out.octets.getD (e.place / 8) 0).getLsbD (e.place % 8) } }) ∧
      (8 * e.out.octets.length ≤ e.place + 1 →
        step s = exec
          (match e.state with
            | .fill => .fillPairEnd x hold further
            | .gap => .gapPairEnd x hold further
            | .sending => .blockSent x) s1)

/-- What is due is taken before any other command acts, and before the edge of an empty queue, and then nothing is due: the
reset, the session, and then the events on their way to the Notice Emitter (the model's choice, log 3). The emitter takes
them one at a time, building each notice at the first event that makes it due; which of the events that have come together
it takes first, and whether a notice waits for more of them, is as its two lists say (R171; the lists are the model's form,
log 4). A reset that is due comes before SESSION_TAKE and NOTICE_BUILD too; where it is not due, and they are not, they
change nothing (the model's choice, log 1). -/
def Obligations.DueStepsComeFirst : Prop :=
  (∀ s : State, s.resetHigh = false →
    let resets := s.engine.state = .reinitPending ∧ s.engine.session = none ∧ (s.buf.desc 126).state = .free
    let takes := s.engine.state = .idle ∧ s.engine.queue ≠ [] ∧ (s.buf.desc 126).state = .free
    let buildable :=
      s.emitter.enabled = true ∧ s.emitter.pending ≠ {} ∧ s.emitter.timer = .expired ∧ (s.buf.desc 127).state = .free
    (¬resets → ¬takes → exec .sessionTake s = .next s) ∧
    (¬resets → s.emitter.inbox = [] → ¬buildable → exec .noticeBuild s = .next s) ∧
    (¬resets → exec .noticeBuild s = exec .noticeBuild s.drain) ∧
    ∃ r t, exec .reinitReset s = .next r ∧ exec .sessionTake r = .next t ∧
      exec .sessionTake s = exec .sessionTake r ∧ exec .noticeBuild s = exec .noticeBuild r ∧
      s.settle = t.drain ∧ t.drain.quiet = true ∧ (s.pending = [] → step s = step t.drain) ∧
      ∀ c : Instr, c ≠ .hardwareReset → c ≠ .resetNegated → c ≠ .sessionTake → c ≠ .reinitReset → c ≠ .noticeBuild →
        exec c s = exec c t.drain) ∧
  ∀ s : State,
    let m := s.emitter
    let builds :=
      m.enabled = true ∧ m.pending ≠ {} ∧ m.timer = .expired ∧ (s.buf.desc 127).state = .free ∧
        s.awaits.headD 0 ≤ m.pending.total
    let place := if s.arrivals.headD 0 < m.inbox.length then s.arrivals.headD 0 else 0
    (m.inbox = [] → ¬builds → s.drain = s) ∧
    (s.resetHigh = false →
      ¬(s.engine.state = .reinitPending ∧ s.engine.session = none ∧ (s.buf.desc 126).state = .free) → builds →
      ∃ u, exec .noticeBuild { s with emitter := { m with inbox := [] } } = .next u ∧
        s.drain = State.drain { u with emitter := { u.emitter with inbox := m.inbox } }) ∧
    ∀ e, ¬builds → m.inbox[place]? = some e →
      s.drain = State.drain
        { s with
          emitter := { m with pending := m.pending.record e, inbox := m.inbox.eraseIdx place }
          arrivals := s.arrivals.tail }

/-! ### RESET and the timebase -/

/-- A hardware reset leaves every item at its after-reset value, TDx held high, no tick and no FLUSH-ALL under way and no
event on its way to the Notice Emitter; cell contents, which
have none, stay (log 10), as do the model's own inputs, which are not the part's. -/
def Obligations.HardwareResetValues : Prop :=
  ∀ s : State, exec .hardwareReset s = .next
    { resetHigh := true
      divideCount := 0
      owed := []
      unflushed := []
      self := 0xFE
      config :=
        ⟨⟨0x96, 0x69, 1, 200, 0, 64, 256, true⟩, ⟨0x96, 0x69, 1, 200, 0, 64, 256, true⟩,
          ⟨0x96, 0x69, 1, 200, 0, 64, 256, true⟩⟩
      rx :=
        ⟨⟨.hunt, [], none, [], 0, none, none, none, none, none, .stopped, false⟩,
          ⟨.hunt, [], none, [], 0, none, none, none, none, none, .stopped, false⟩,
          ⟨.hunt, [], none, [], 0, none, none, none, none, none, .stopped, false⟩⟩
      tx :=
        ⟨⟨[], [], .fill, none, 0, 0, .heldHigh, 0, true⟩, ⟨[], [], .fill, none, 0, 0, .heldHigh, 0, true⟩,
          ⟨[], [], .fill, none, 0, 0, .heldHigh, 0, true⟩⟩
      buf :=
        { mem := s.buf.mem
          freeCells := List.range 494
          freePart := List.range' 494 18
          descs := List.replicate 128 {}
          freeDescs := List.range 126
          tickets := State.reset.buf.tickets
          freeTickets := List.range 190
          hwCells := 0
          hwDescs := 0
          lowArmed := true }
      routes :=
        { slots := List.replicate 96 .free
          defaults :=
            ⟨.forward ⟨false, true, false⟩ .normal, .forward ⟨true, false, false⟩ .normal, .discard⟩ }
      engine := ⟨.idle, [], none⟩
      emitter := ⟨false, 0xFF, .a, 100, ⟨⟨none, none, none⟩, ⟨none, none, none⟩, none, none, none, none⟩, .expired, 0,
        []⟩
      count :=
        ⟨⟨⟨0, 0, 0, 0, 0, 0, 0, 0, 0, 0, 0, 0, 0⟩, ⟨0, 0, 0, 0, 0, 0, 0, 0, 0, 0, 0, 0, 0⟩,
            ⟨0, 0, 0, 0, 0, 0, 0, 0, 0, 0, 0, 0, 0⟩⟩,
          ⟨⟨0, 0, 0, 0, 0, 0⟩, ⟨0, 0, 0, 0, 0, 0⟩, ⟨0, 0, 0, 0, 0, 0⟩⟩, ⟨0, 0, 0, 0⟩⟩
      pending := s.pending
      edges := s.edges
      ticks := s.ticks
      gaps := s.gaps
      flushes := s.flushes
      awaits := s.awaits
      arrivals := s.arrivals }

/-- While RESET is high the part holds its state, whatever is commanded but RESET itself. At its falling edge the part
starts: each transmitter begins a fill pair with its line's sync pair, none of its bits presented, and the divide count is
0; nothing else changes. A RESET already low has no falling edge, so the command then does nothing: that last clause is
the model's choice (log 1). -/
def Obligations.ResetHoldsAndStartsThePart : Prop :=
  (∀ (c : Instr) (s : State), s.resetHigh = true → c ≠ .hardwareReset → c ≠ .resetNegated → exec c s = .next s) ∧
  ∀ s : State,
    (s.resetHigh = true → exec .resetNegated s = .next
      { s with
        resetHigh := false
        divideCount := 0
        tx :=
          ⟨{ s.tx.a with out := .pair s.config.a.syn1 s.config.a.syn2, place := 0 },
            { s.tx.b with out := .pair s.config.b.syn1 s.config.b.syn2, place := 0 },
            { s.tx.l with out := .pair s.config.l.syn1 s.config.l.syn2, place := 0 }⟩ }) ∧
    (s.resetHigh = false → exec .resetNegated s = .next s)

/-- The reset a REINIT deferred is made once the engine is REINIT-PENDING without a session and the reply descriptor is
FREE; it is the hardware reset without the held interval. That cell contents stay is the model's choice (log 10), that TDx
keeps its level until the next bit its reading of R179 (log 9), and that the command otherwise does nothing its choice too
(log 1). -/
def Obligations.ReinitResetValues : Prop :=
  ∀ s : State, s.resetHigh = false →
    (s.engine.state = .reinitPending ∧ s.engine.session = none ∧ (s.buf.desc 126).state = .free →
      exec .reinitReset s = .next
        { State.reset with
          tx := ⟨{ tdx := s.tx.a.tdx }, { tdx := s.tx.b.tdx }, { tdx := s.tx.l.tdx }⟩
          buf := { State.reset.buf with mem := s.buf.mem }
          pending := s.pending
          edges := s.edges
          ticks := s.ticks
          gaps := s.gaps
          flushes := s.flushes
          awaits := s.awaits
          arrivals := s.arrivals }) ∧
    (¬(s.engine.state = .reinitPending ∧ s.engine.session = none ∧ (s.buf.desc 126).state = .free) →
      exec .reinitReset s = .next s)

/-- A tick ages every WAITING ticket up to 65535, lowers every running deadline and a running interval timer by 1, and
leaves the divide count 0; a countdown at its last millisecond expires at that tick. The seven blocks take the tick as
separate events, those listed for it at once and in that order, the others at later steps, whatever is due being taken in
between. The tick that is under way reaches its last blocks before a new one is issued. That a tick may be issued at any
divide count, that the one before is finished first, and the list are the model's choice (log 6), the expiry at the tick is
R30's and R172's (log 5). -/
def Obligations.TickAgesAndCountsDown : Prop :=
  (∀ s : State, s.quiet = true → s.owed = [] → s.ticks.headD TickTaker.all = TickTaker.all →
    (∀ x n, (s.rx.get x).deadline = .running n → 2 ≤ n) → (∀ n, s.emitter.timer = .running n → 2 ≤ n) →
    ∃ t, exec .timebaseTick s = .next t ∧ t.divideCount = 0 ∧ t.resetHigh = false ∧
      t.buf.tickets = s.buf.tickets.map (fun k =>
        if k.state = .waiting then { k with age := min (k.age + 1) 65535 } else k) ∧
      (∀ x, t.rx.get x =
        { s.rx.get x with
          deadline := match (s.rx.get x).deadline with
            | .stopped => .stopped
            | .running n => .running (n - 1) }) ∧
      t.emitter =
        { s.emitter with
          timer := match s.emitter.timer with
            | .expired => .expired
            | .running n => .running (n - 1) } ∧
      s.changesOnly t [.signals, .ticks, .tickets, .rx .a, .rx .b, .rx .l, .emitter]) ∧
  (∀ s : State, s.quiet = true →
    let ks := s.ticks.headD TickTaker.all
    let s1 := { s with ticks := s.ticks.tail }
    (s.owed = [] →
      exec .timebaseTick s = .next (ks.foldl State.deliver { s1 with divideCount := 0, owed := TickTaker.all })) ∧
    (ks ≠ [] → (∀ k ∈ ks, k ∈ s.owed) → exec .timebaseTick s = .next (ks.foldl State.deliver s1)) ∧
    (s.owed ≠ [] → (ks = [] ∨ ∃ k ∈ ks, k ∉ s.owed) →
      ∃ t, exec .timebaseTick { s with ticks := s.owed :: s.ticks } = .next t ∧
        exec .timebaseTick s = exec .timebaseTick t)) ∧
  ∀ (s : State) (k : TickTaker),
    let u := { s.settle with owed := s.settle.owed.erase k }
    (k ∉ s.settle.owed → s.deliver k = s.settle) ∧
    (k ∈ s.settle.owed →
      (∀ x, k = .queue x →
        s.deliver k =
          { u with
            buf :=
              { u.buf with
                tickets := u.buf.tickets.map fun v =>
                  if v.state = .waiting ∧ v.line = x then { v with age := min (v.age + 1) 65535 } else v } }) ∧
      (k = .timer →
        s.deliver k =
          { u with
            emitter :=
              { u.emitter with
                timer := match u.emitter.timer with
                  | .expired => .expired
                  | .running n => if n ≤ 1 then .expired else .running (n - 1) } }) ∧
      ∀ x, k = .deadline x →
        ((u.rx.get x).deadline = .stopped → s.deliver k = u) ∧
        ∀ n, (u.rx.get x).deadline = .running n →
          (2 ≤ n → s.deliver k = { u with rx := u.rx.set x { u.rx.get x with deadline := .running (n - 1) } }) ∧
          (n ≤ 1 → s.settle.expires (s.deliver k) x))

/-! ### Receivers: hunting and synchronism -/

/-- A bit in HUNT enters the history, and the comparison is made over the last eight bits, the earliest the least
significant: a match fixes the alignment and leads to CONFIRM, anything else leaves the receiver in HUNT. Both commands
bring a bit; that which of the two events it is follows from the history is the model's reading (log 2, DEDUCED from
R14). -/
def Obligations.HuntComparesEachBit : Prop :=
  ∀ (s : State) (x : Line) (bit : Bool) (i : Instr), i = .huntMatch x bit ∨ i = .huntComparisonNoMatch x bit →
    s.quiet = true → (s.rx.get x).state = .hunt → (s.rx.get x).align = none →
    let h := ((s.rx.get x).history ++ [bit]).drop ((s.rx.get x).history.length - 7)
    (h = octetBits (s.config.get x).syn1 →
      exec i s = .next
        { s with rx := s.rx.set x { s.rx.get x with history := h, state := .confirm, ins := false, align := some 0 } }) ∧
    (h ≠ octetBits (s.config.get x).syn1 →
      exec i s = .next { s with rx := s.rx.set x { s.rx.get x with history := h } })

/-- An octet command is its eight bits, least significant first, taken one after another, whatever the receiver's state:
the model's reading of R14, R31, R33 and R179 (log 2, DEDUCED). -/
def Obligations.OctetIsItsEightBits : Prop :=
  ∀ (s : State) (x : Line) (o : Byte) (i : Instr), s.resetHigh = false →
    i ∈ [Instr.octetInConfirm x o, .octetInGap x o, .octetInGapSyn x o, .headerOctet x o, .headerCompletion x o,
      .textOctet x o, .checkOctet x o, .blockCompletion x o] →
    exec i s = (octetBits o).foldl
      (fun r bit => match r with
        | .next t => exec (.huntComparisonNoMatch x bit) t
        | .fault e => .fault e
        | .refused e => .refused e) (.next s)

/-- CONFIRM: SYN2 gains synchronism; any other octet returns to HUNT, which compares over that octet, so that SYN1 fixes
the alignment again and leaves the receiver in CONFIRM (R15). -/
def Obligations.ConfirmTakesAnOctet : Prop :=
  ∀ (s : State) (x : Line) (o : Byte), s.hears x .confirm →
    (o = (s.config.get x).syn2 →
      exec (.octetInConfirm x o) s = .next
        { s with
          rx := s.rx.set x { s.rx.get x with history := octetBits o, state := .gap, ins := true }
          count :=
            { s.count with
              rx := s.count.rx.set x
                { s.count.rx.get x with
                  syncAcquisitions := min ((s.count.rx.get x).syncAcquisitions + 1) 4294967295 } }
          emitter := s.emitter.hear [.syncGained x] }) ∧
    (o ≠ (s.config.get x).syn2 → o = (s.config.get x).syn1 →
      exec (.octetInConfirm x o) s = .next
        { s with
          rx := s.rx.set x
            { s.rx.get x with history := octetBits o, state := .confirm, ins := false, align := some 0 } }) ∧
    (o ≠ (s.config.get x).syn2 → o ≠ (s.config.get x).syn1 →
      exec (.octetInConfirm x o) s = .next
        { s with
          rx := s.rx.set x { s.rx.get x with history := octetBits o, state := .hunt, ins := false, align := none } })

/-- GAP: SYN1 leads to GAP-SYN, and an octet that is neither SYN1 nor BLK loses synchronism. GAP-SYN: SYN2 returns to
GAP; any other octet loses synchronism, and the comparison on entry to HUNT runs over the same octet, which in GAP cannot
match. -/
def Obligations.GapAndGapSynTakeAnOctet : Prop :=
  ∀ (s : State) (x : Line) (o : Byte), (s.rx.get x).outside →
    let losses :=
      { s.count with
        rx := s.count.rx.set x
          { s.count.rx.get x with syncLosses := min ((s.count.rx.get x).syncLosses + 1) 4294967295 } }
    (s.hears x .gap → o = (s.config.get x).syn1 →
      exec (.octetInGap x o) s = .next
        { s with rx := s.rx.set x { s.rx.get x with history := octetBits o, state := .gapSyn, ins := true } }) ∧
    (s.hears x .gap → o ≠ (s.config.get x).syn1 → o ≠ 0x5A →
      exec (.octetInGap x o) s = .next
        { s with
          rx := s.rx.set x { s.rx.get x with history := octetBits o, state := .hunt, ins := false, align := none }
          count := losses
          emitter := s.emitter.hear [.syncLost x] }) ∧
    (s.hears x .gapSyn → o = (s.config.get x).syn2 →
      exec (.octetInGapSyn x o) s = .next
        { s with rx := s.rx.set x { s.rx.get x with history := octetBits o, state := .gap, ins := true } }) ∧
    (s.hears x .gapSyn → o ≠ (s.config.get x).syn2 →
      exec (.octetInGapSyn x o) s = .next
        { s with
          rx := s.rx.set x
            { s.rx.get x with
              history := octetBits o
              state := if o = (s.config.get x).syn1 then .confirm else .hunt
              ins := false
              align := if o = (s.config.get x).syn1 then some 0 else none }
          count := losses
          emitter := s.emitter.hear [.syncLost x] })

/-- The tick that lowers a deadline to 0 is its expiry: it counts deadline abandons and sync losses, abandons the block,
raises SYNC-LOST and leads to HUNT. The command is that tick reaching a receiver whose countdown is at 1, in the model's
reading (log 5); a countdown at 0, which no run brings about, counts as an expiry too. Otherwise there is no expiry and the
command does nothing: R33 says so of an expiry taken second, and of the rest it is the model's choice (log 1). -/
def Obligations.DeadlineExpiryEndsTheBlock : Prop :=
  ∀ (s : State) (x : Line), s.quiet = true →
    let due := (s.rx.get x).deadline = .running 0 ∨
      ((s.rx.get x).deadline = .running 1 ∧ TickTaker.deadline x ∈ s.owed)
    (due → ∃ t, exec (.deadlineExpiry x) s = .next t ∧ s.expires t x) ∧
    (¬due → exec (.deadlineExpiry x) s = .next s)

/-! ### Receivers: blocks -/

/-- BLK in GAP begins a block: the check is preset, the deadline started from the configured value, and the head general
descriptor claimed, which then has an empty chain, no ticket and no bind as its freeing left it (R40); with none free the
block is SINK and descriptor-exhausted is counted. -/
def Obligations.BlkBeginsABlock : Prop :=
  ∀ (s : State) (x : Line), s.hears x .gap → (s.config.get x).syn1 ≠ 0x5A →
    let limit := (s.config.get x).deadline
    let begun :=
      { s.rx.get x with
        history := octetBits 0x5A, state := .header, ins := true, header := [], position := 0, crc := some 0xFFFF,
        heldCheck := none, cell := none, deadline := if limit = 0 then .stopped else .running limit }
    (∀ d rest, s.buf.freeDescs = d :: rest →
      ∃ t, exec (.octetInGap x 0x5A) s = .next t ∧
        t =
          { s with
            rx := s.rx.set x { begun with disposition := some .store, filling := some d }
            buf :=
              { s.buf with
                freeDescs := rest
                hwDescs := max s.buf.hwDescs (126 - rest.length)
                descs := s.buf.descs.modify d fun v =>
                  { v with state := .filling, ingress := some x, origin := .received, mark := false } } } ∧
        (d < s.buf.descs.length → (s.buf.desc d).chain = [] → (s.buf.desc d).tickets = 0 →
          (s.buf.desc d).bound = .none →
          t.buf.desc d =
            { s.buf.desc d with
              state := .filling, ingress := some x, origin := .received, mark := false, chain := [], tickets := 0
              bound := .none })) ∧
    (s.buf.freeDescs = [] →
      exec (.octetInGap x 0x5A) s = .next
        { s with
          rx := s.rx.set x { begun with disposition := some .sink, filling := none }
          count :=
            { s.count with
              rx := s.count.rx.set x
                { s.count.rx.get x with
                  descExhausted := min ((s.count.rx.get x).descExhausted + 1) 4294967295 } } })

/-- A header or text octet of a block that holds no descriptor is followed and fed to the check, and nothing else
changes; its sixth header octet, of a well-formed header, is handed to nobody. The check is R4's: preset 0xFFFF, each
octet entering most significant bit first, each bit combined with the register's highest, and 0x1021 combined in where the
result was 1; continued over two octets it leaves 0 exactly when they are the check, high octet first. -/
def Obligations.SinkBlockIsFollowed : Prop :=
  (∀ (s : State) (x : Line) (o : Byte), (s.rx.get x).filling = none →
    (∀ i : Instr, s.fills i x o → exec i s = .next { s with rx := s.rx.set x ((s.rx.get x).took o) }) ∧
    (s.hears x .header → (s.rx.get x).position = 5 → (s.rx.get x).header.length = 5 →
      wordOf ((s.rx.get x).header.getD 4 0) o ≤ 1020 →
      exec (.headerCompletion x o) s = .next { s with rx := s.rx.set x ((s.rx.get x).headed o) })) ∧
  (∀ (k : Word16) (o : Byte), crcOctet k o =
    (List.range 8).foldl
      (fun (k : Word16) (n : Nat) => if k.getLsbD 15 = o.getLsbD (7 - n) then k <<< 1 else (k <<< 1) ^^^ 0x1021) k) ∧
  crcOf [] = 0xFFFF ∧ (∀ (os : List Byte) (o : Byte), crcOf (os ++ [o]) = crcOctet (crcOf os) o) ∧
  ∀ (os : List Byte) (c1 c2 : Byte),
    crcOf (os ++ [c1, c2]) = 0 ↔ (crcOf os).toNat = 256 * c1.toNat + c2.toNat

/-- With room in the current cell the octet is written there, at the next fill level, and at no other address. -/
def Obligations.OctetIsStoredInTheCurrentCell : Prop :=
  ∀ (s : State) (i : Instr) (x : Line) (o : Byte) (d c k : Nat), s.fills i x o → (s.rx.get x).filling = some d →
    (s.rx.get x).cell = some ⟨c, k⟩ → k < 64 → c < 512 → s.buf.mem.wf = true →
    ∃ t, exec i s = .next t ∧ t.rx.get x = { (s.rx.get x).took o with cell := some ⟨c, k + 1⟩ } ∧
      (∀ a, t.buf.mem.read a = if a = 64 * c + k then o else s.buf.mem.read a) ∧
      s.changesOnly t [.rx x, .cells]

/-- With no cell held, or the current one full, the head general cell joins the tail of the chain and takes the octet;
the high-water mark follows, and the claim that leaves 47 cells free raises BUFFER-LOW and disarms the flag. -/
def Obligations.OctetClaimsANewCell : Prop :=
  ∀ (s : State) (i : Instr) (x : Line) (o : Byte) (d c : Nat) (rest : List Nat), s.fills i x o →
    (s.rx.get x).filling = some d → d < s.buf.descs.length →
    (∀ v, (s.rx.get x).cell = some v → 64 ≤ v.fill) → s.buf.freeCells = c :: rest → c < 512 → s.buf.mem.wf = true →
    ∃ t, exec i s = .next t ∧ t.rx.get x = { (s.rx.get x).took o with cell := some ⟨c, 1⟩ } ∧
      (∀ a, t.buf.mem.read a = if a = 64 * c then o else s.buf.mem.read a) ∧
      t.buf =
        { s.buf with
          mem := t.buf.mem
          freeCells := rest
          hwCells := max s.buf.hwCells (494 - rest.length)
          lowArmed := if rest.length = 47 then false else s.buf.lowArmed
          descs := s.buf.descs.modify d fun v => { v with chain := v.chain ++ [c] } } ∧
      t.emitter =
        (if s.buf.lowArmed = true ∧ rest.length = 47 then s.emitter.hear [.bufferLow] else s.emitter) ∧
      s.changesOnly t [.rx x, .cells, .pools, .descs, .emitter]

/-- With no general cell free the octet is not stored: the block turns to SINK, its descriptor, cells and bind go back,
and buffer-exhausted is counted; the receiver goes on following the block. -/
def Obligations.FailedCellClaimTurnsToSink : Prop :=
  ∀ (s : State) (i : Instr) (x : Line) (o : Byte) (d : Nat), s.fills i x o → s.stores x d →
    (∀ v, (s.rx.get x).cell = some v → 64 ≤ v.fill) → s.buf.freeCells = [] →
    ∃ t, exec i s = .next t ∧
      t.rx.get x = { (s.rx.get x).took o with disposition := some .sink, filling := none, cell := none } ∧
      s.givesBack t x [] ∧
      t.count.rx.get x =
        { s.count.rx.get x with bufferExhausted := min ((s.count.rx.get x).bufferExhausted + 1) 4294967295 } ∧
      s.changesOnly t [.rx x, .rxCount x, .pools, .descs, .slots, .emitter]

/-- A LEN above 1020 is a header fault: header faults and sync losses are counted, the block is abandoned, SYNC-LOST is
raised, and the comparison on entry to HUNT runs over the sixth header octet (R25). That the header register keeps its
octets and the octet position stays 6 is the model's choice (log 19). -/
def Obligations.HeaderFaultLosesSynchronism : Prop :=
  ∀ (s : State) (x : Line) (o : Byte), s.hears x .header → (s.rx.get x).position = 5 →
    (s.rx.get x).header.length = 5 → 1020 < wordOf ((s.rx.get x).header.getD 4 0) o →
    (∀ d, (s.rx.get x).filling = some d → ∃ c k, (s.rx.get x).cell = some ⟨c, k⟩ ∧ k < 64) →
    ∃ t, exec (.headerCompletion x o) s = .next t ∧
      t.rx.get x =
        { (s.rx.get x).hunting with
          history := octetBits o
          header := (s.rx.get x).header ++ [o]
          position := 6
          state := if o = (s.config.get x).syn1 then .confirm else .hunt
          align := if o = (s.config.get x).syn1 then some 0 else none } ∧
      t.count.rx.get x =
        { s.count.rx.get x with
          headerFaults := min ((s.count.rx.get x).headerFaults + 1) 4294967295
          syncLosses := min ((s.count.rx.get x).syncLosses + 1) 4294967295 } ∧
      s.givesBack t x [.syncLost x] ∧
      (∀ a, (∀ c k, (s.rx.get x).cell = some ⟨c, k⟩ → a ≠ 64 * c + k) → t.buf.mem.read a = s.buf.mem.read a) ∧
      s.changesOnly t [.rx x, .rxCount x, .cells, .pools, .descs, .slots, .emitter]

/-- A block for the own station address: KIND MGMT on a permitted line is marked for management, with no lookup, no bind
and no count; any other is discarded, and management-refused is counted for KIND MGMT, stray-to-self for every other. -/
def Obligations.BlocksForTheOwnStationAddress : Prop :=
  ∀ (s : State) (x : Line) (o dst src kind seq hi : Byte) (d c k : Nat), s.endsHeader x d c k →
    (s.rx.get x).header = [dst, src, kind, seq, hi] → wordOf hi o ≤ 1020 → dst = s.self →
    (kind = 0xF0 → (s.config.get x).permitted = true →
      ∃ t, exec (.headerCompletion x o) s = .next t ∧
        t.rx.get x = { (s.rx.get x).headed o with cell := some ⟨c, k + 1⟩ } ∧
        t.buf.descs =
          s.buf.descs.modify d (fun v => { v with dst, src, kind, seq, len := wordOf hi o, mark := true }) ∧
        (∀ a, t.buf.mem.read a = if a = 64 * c + k then o else s.buf.mem.read a) ∧
        s.changesOnly t [.rx x, .cells, .descs]) ∧
    ((kind = 0xF0 → (s.config.get x).permitted = false) →
      ∃ t, exec (.headerCompletion x o) s = .next t ∧
        t.rx.get x = { (s.rx.get x).headed o with disposition := some .sink, filling := none, cell := none } ∧
        t.count.rx.get x =
          (if kind = 0xF0 then
            { s.count.rx.get x with mgmtRefused := min ((s.count.rx.get x).mgmtRefused + 1) 4294967295 }
          else { s.count.rx.get x with strayToSelf := min ((s.count.rx.get x).strayToSelf + 1) 4294967295 }) ∧
        (∀ a, t.buf.mem.read a = if a = 64 * c + k then o else s.buf.mem.read a) ∧ s.givesBack t x [] ∧
        s.changesOnly t [.rx x, .rxCount x, .cells, .pools, .descs, .slots, .emitter])

/-- A block whose key an ACTIVE FORWARD slot has is bound to that slot and captures its route; the slot's bind count
alone rises. -/
def Obligations.LookupMatchesAnActiveSlot : Prop :=
  ∀ (s : State) (x : Line) (o dst src kind seq hi : Byte) (d c k n : Nat) (e : Entry) (egress : LineSet) (cls : QClass)
    (rewrite : Option Byte), s.endsHeader x d c k → s.KeysUnique →
    (s.rx.get x).header = [dst, src, kind, seq, hi] → wordOf hi o ≤ 1020 → dst ≠ s.self →
    s.routes.slot n = .active e → e.keyLine = x → e.keyDst = dst → e.route = .forward egress cls rewrite →
    ∃ t, exec (.headerCompletion x o) s = .next t ∧
      t.rx.get x = { (s.rx.get x).headed o with cell := some ⟨c, k + 1⟩ } ∧
      t.buf.descs = s.buf.descs.modify d (fun v =>
        { v with
          dst, src, kind, seq, len := wordOf hi o, mark := false, action := .forward, egress, cls,
          txDst := rewrite.getD dst, bound := .slot n }) ∧
      t.routes.slots = s.routes.slots.set n (.active { e with binds := e.binds + 1 }) ∧
      (∀ a, t.buf.mem.read a = if a = 64 * c + k then o else s.buf.mem.read a) ∧
      s.changesOnly t [.rx x, .cells, .descs, .slots]

/-- A block whose key no ACTIVE slot has is bound to its line's default route, and default-route hits is counted. -/
def Obligations.LookupMissTakesTheDefaultRoute : Prop :=
  ∀ (s : State) (x : Line) (o dst src kind seq hi : Byte) (d c k : Nat) (egress : LineSet) (cls : QClass),
    s.endsHeader x d c k → (s.rx.get x).header = [dst, src, kind, seq, hi] → wordOf hi o ≤ 1020 → dst ≠ s.self →
    (∀ v ∈ s.routes.slots, v.matches x dst = false) → s.routes.defaults.get x = .forward egress cls →
    ∃ t, exec (.headerCompletion x o) s = .next t ∧
      t.rx.get x = { (s.rx.get x).headed o with cell := some ⟨c, k + 1⟩ } ∧
      t.buf.descs = s.buf.descs.modify d (fun v =>
        { v with
          dst, src, kind, seq, len := wordOf hi o, mark := false, action := .forward, egress, cls, txDst := dst,
          bound := .default x }) ∧
      t.count.rx.get x =
        { s.count.rx.get x with defaultHits := min ((s.count.rx.get x).defaultHits + 1) 4294967295 } ∧
      (∀ a, t.buf.mem.read a = if a = 64 * c + k then o else s.buf.mem.read a) ∧
      s.changesOnly t [.rx x, .rxCount x, .cells, .descs]

/-- A block that a DISCARD slot or a DISCARD default route takes is discarded at its header completion: everything it
holds goes back and the slot is as before; the default route still counts its hit. -/
def Obligations.RouteDiscardsTheBlock : Prop :=
  ∀ (s : State) (x : Line) (o dst src kind seq hi : Byte) (d c k : Nat), s.endsHeader x d c k → s.KeysUnique →
    (s.rx.get x).header = [dst, src, kind, seq, hi] → wordOf hi o ≤ 1020 → dst ≠ s.self →
    (∀ n e, s.routes.slot n = .active e → e.keyLine = x → e.keyDst = dst → e.route = .discard →
      ∃ t, exec (.headerCompletion x o) s = .next t ∧
        t.rx.get x = { (s.rx.get x).headed o with disposition := some .sink, filling := none, cell := none } ∧
        s.buf.returned t.buf d ∧ t.emitter = s.emitter.hear (s.buf.freedEvents d) ∧
        (∀ a, t.buf.mem.read a = if a = 64 * c + k then o else s.buf.mem.read a) ∧
        s.changesOnly t [.rx x, .cells, .pools, .descs, .emitter]) ∧
    ((∀ v ∈ s.routes.slots, v.matches x dst = false) → s.routes.defaults.get x = .discard →
      ∃ t, exec (.headerCompletion x o) s = .next t ∧
        t.rx.get x = { (s.rx.get x).headed o with disposition := some .sink, filling := none, cell := none } ∧
        t.count.rx.get x =
          { s.count.rx.get x with defaultHits := min ((s.count.rx.get x).defaultHits + 1) 4294967295 } ∧
        s.buf.returned t.buf d ∧ t.emitter = s.emitter.hear (s.buf.freedEvents d) ∧
        (∀ a, t.buf.mem.read a = if a = 64 * c + k then o else s.buf.mem.read a) ∧
        s.changesOnly t [.rx x, .rxCount x, .cells, .pools, .descs, .emitter])

/-! ### Block completion -/

/-- A check that is not good counts check failures and abandons the block; the receiver enters GAP, with no loss of
synchronism (R29). That the header register keeps its octets and the octet position stays 2 is the model's choice
(log 19). -/
def Obligations.BadCheckAbandonsTheBlock : Prop :=
  ∀ (s : State) (x : Line) (o : Byte), s.endsBlock x o false →
    ∃ t, exec (.blockCompletion x o) s = .next t ∧ t.rx.get x = (s.rx.get x).completed o ∧
      t.count.rx.get x =
        { s.count.rx.get x with checkFailures := min ((s.count.rx.get x).checkFailures + 1) 4294967295 } ∧
      s.givesBack t x [] ∧
      s.changesOnly t [.rx x, .rxCount x, .pools, .descs, .slots, .emitter]

/-- The first check octet is held until the second. A good block that holds no descriptor is counted at its second check
octet, and nothing more is done for it. That the held octet is an item of its own, absent again after the block, and that
the header register keeps its octets and the octet position stays 2 are the model's choice (log 19). -/
def Obligations.CheckOctetsAndGoodSinkBlocks : Prop :=
  ∀ (s : State) (x : Line) (o : Byte),
    (s.hears x .check → (s.rx.get x).position = 0 →
      exec (.checkOctet x o) s = .next
        { s with rx := s.rx.set x { s.rx.get x with history := octetBits o, heldCheck := some o, position := 1 } }) ∧
    (s.endsBlock x o true → (s.rx.get x).filling = none →
      exec (.blockCompletion x o) s = .next
        { s with
          rx := s.rx.set x ((s.rx.get x).completed o)
          count := { s.count with rx := s.count.rx.set x ((s.count.rx.get x).good (s.rx.get x).len) } })

/-- A good marked block joins the tail of the management queue as HELD while fewer than 4 wait; against a full queue it
overflows: it is freed, overflows is counted and MGMT-OVERFLOW raised. That the header register keeps its octets and the
octet position stays 2 is the model's choice (log 19). -/
def Obligations.ManagementQueueOffer : Prop :=
  ∀ (s : State) (x : Line) (o : Byte) (d : Nat), s.endsBlock x o true → s.stores x d →
    (s.buf.desc d).mark = true →
    (s.engine.queue.length < 4 →
      exec (.blockCompletion x o) s = .next
        { s with
          rx := s.rx.set x ((s.rx.get x).completed o)
          count := { s.count with rx := s.count.rx.set x ((s.count.rx.get x).good (s.rx.get x).len) }
          buf := { s.buf with descs := s.buf.descs.modify d fun v => { v with state := .held } }
          engine := { s.engine with queue := s.engine.queue ++ [d] } }) ∧
    (4 ≤ s.engine.queue.length →
      ∃ t, exec (.blockCompletion x o) s = .next t ∧ t.rx.get x = (s.rx.get x).completed o ∧
        t.count.rx.get x = (s.count.rx.get x).good (s.rx.get x).len ∧
        t.count.engine = { s.count.engine with overflows := min (s.count.engine.overflows + 1) 4294967295 } ∧
        s.buf.returned t.buf d ∧
        t.emitter = s.emitter.hear (s.buf.freedEvents d ++ [.mgmtOverflow x]) ∧
        s.changesOnly t [.rx x, .rxCount x, .pools, .descs, .emitter, .engineCount])

/-- The sequence check of the ACTIVE slot a good stored block is bound to: d = (SEQ − E) modulo 256, and the first case
that applies (R68); a duplicate is freed, with no copy (R93), and changes nothing else: no octet of a cell, no queue and
no gap; in every case the good block is counted (R90), the bind is released (R69) and W does not change. That the octet position stays 2 is the model's choice (log 19). The copies of an
accepted block are AcceptedBlockIsAdmitted's. -/
def Obligations.SequenceCheckCases : Prop :=
  ∀ (s : State) (x : Line) (o : Byte) (d n : Nat) (e : Entry) (w : Nat) (expected : Byte)
    (primed : Bool), s.endsBlock x o true → s.stores x d → (s.buf.desc d).mark = false →
    (s.buf.desc d).bound = .slot n → s.routes.slot n = .active e → e.seqCheck = some ⟨w, expected, primed⟩ →
    let v := s.buf.desc d
    let dist := (v.seq.toNat + 256 - expected.toNat) % 256
    let acc := { e.counted v.len with binds := e.binds - 1 }
    ∃ t, exec (.blockCompletion x o) s = .next t ∧
      (primed = false →
        t.routes.slot n = .active { acc with seqCheck := some ⟨w, v.seq + 1, true⟩ }) ∧
      (primed = true → dist = 0 →
        t.routes.slot n = .active { acc with seqCheck := some ⟨w, expected + 1, true⟩ }) ∧
      (primed = true → dist ≠ 0 → 256 - dist ≤ w →
        t.routes.slot n =
          .active { e with binds := e.binds - 1, duplicates := min (e.duplicates + 1) 4294967295 } ∧
        s.buf.returned t.buf d ∧ t.emitter = s.emitter.hear (s.buf.freedEvents d) ∧
        s.changesOnly t [.rx x, .rxCount x, .slots, .pools, .descs, .emitter]) ∧
      (primed = true → dist ≠ 0 → w < 256 - dist →
        t.routes.slot n =
          .active
            { acc with seqCheck := some ⟨w, v.seq + 1, true⟩, gaps := min (e.gaps + 1) 4294967295 }) ∧
      (∀ m, m ≠ n → t.routes.slot m = s.routes.slot m) ∧ t.rx.get x = (s.rx.get x).completed o ∧
      t.count.rx.get x = (s.count.rx.get x).good (s.rx.get x).len ∧
      s.changesOnly t
        [.rx x, .rxCount x, .slots, .cells, .pools, .descs, .tickets, .engine, .emitter, .tx .a, .tx .b, .tx .l, .txCount .a,
          .txCount .b, .txCount .l, .gaps, .awaits, .arrivals]

/-- A good stored block that its route accepts, or whose route has retired, is admitted by its captured decision: the
report is made first, and then the copies. A default route counts nothing; an ACTIVE slot counts the block, and where it
has a sequence check that is not yet primed, or finds the block in order or past a gap, it expects the number after the
block's next and counts the gap; a RETIRING slot counts the block on the ingress line, gives its bind up, and is freed
with its last bind (the bind released is the last in every state that a run reaches, R70). That the header register keeps
its octets and the octet position stays 2 is the model's choice (log 19). -/
def Obligations.AcceptedBlockIsAdmitted : Prop :=
  ∀ (s : State) (x : Line) (o : Byte) (d : Nat), s.endsBlock x o true → s.stores x d →
    (s.buf.desc d).mark = false →
    let v := s.buf.desc d
    let good := (s.count.rx.get x).good (s.rx.get x).len
    let reported :=
      { s with
        rx := s.rx.set x ((s.rx.get x).completed o)
        count := { s.count with rx := s.count.rx.set x good }
        buf := { s.buf with descs := s.buf.descs.modify d fun v => { v with bound := .none } } }
    (∀ y, v.bound = .default y → exec (.blockCompletion x o) s = .next (reported.admitBlock d)) ∧
    (∀ n e, v.bound = .slot n → s.routes.slot n = .active e → e.seqCheck = none →
      exec (.blockCompletion x o) s = .next
        (State.admitBlock
          { reported with
            routes := s.routes.setSlot n (.active { e.counted v.len with binds := e.binds - 1 }) } d)) ∧
    (∀ n e w expected primed, v.bound = .slot n → s.routes.slot n = .active e →
      e.seqCheck = some ⟨w, expected, primed⟩ →
      let dist := (v.seq.toNat + 256 - expected.toNat) % 256
      primed = false ∨ dist = 0 ∨ w < 256 - dist →
      exec (.blockCompletion x o) s = .next
        (State.admitBlock
          { reported with
            routes := s.routes.setSlot n
              (.active
                { e.counted v.len with
                  binds := e.binds - 1
                  seqCheck := some ⟨w, v.seq + 1, true⟩
                  gaps := if primed = true ∧ dist ≠ 0 then min (e.gaps + 1) 4294967295 else e.gaps }) } d)) ∧
    (∀ n e, v.bound = .slot n → s.routes.slot n = .retiring e → e.binds = 1 →
      exec (.blockCompletion x o) s = .next
        (State.admitBlock
          { reported with
            routes := s.routes.setSlot n .free
            count :=
              { s.count with
                rx := s.count.rx.set x
                  { good with retiredCompletions := min (good.retiredCompletions + 1) 4294967295 } }
            emitter := s.emitter.hear [.routeFreed n] } d)) ∧
    (∀ n e, v.bound = .slot n → s.routes.slot n = .retiring e → 1 < e.binds →
      exec (.blockCompletion x o) s = .next
        (State.admitBlock
          { reported with
            routes := s.routes.setSlot n (.retiring { e with binds := e.binds - 1 })
            count :=
              { s.count with
                rx := s.count.rx.set x
                  { good with retiredCompletions := min (good.retiredCompletions + 1) 4294967295 } } } d))

/-- The copies of a block are decided for the lines of its egress set in the order A, B, L, and then its descriptor is
QUEUED, or freed where no copy was admitted. In the gap before each of them the blocks in transmission end that are listed
for it, each as BLOCK_SENT has it, the Notice Emitter takes its events where that is listed, so that a notice that the
report made due takes its place ahead of the copies, and the session that is over ends where that is listed, as SESSION_END
has it (R97, R174; the list is the model's form, log 21). Each copy takes the
head general ticket and joins the tail of its queue; it is dropped, and counted on its line, where no ticket is free or
where the queue's occupancy, the cells of its general tickets added (R103), and the block's cells exceed the depth limit.
The ticket claimed for a copy that the depth limit drops is back at the head of the list, FREE as before, with its fields
set from the claim, and no other ticket changes (R44). -/
def Obligations.CopiesAreAdmittedOrDropped : Prop :=
  (∀ (u : State) (y : Line), u.quiet = true → exec (.blockSent y) u = .next (u.endBlockSent y)) ∧
  (∀ u : State, u.quiet = true → u.unflushed = [] → exec .sessionEnd u = .next u.endIfOver) ∧
  (∀ u : State, (∀ ss, u.engine.session = some ss → ss.outcome = .walking) ∨ u.unflushed ≠ [] → u.endIfOver = u) ∧
  ∀ (s : State) (d : Nat),
    (let copy := fun (u : State) (x : Line) => u.admitCopy d x
     let gap := fun (u : State) =>
       (u.gaps.headD []).foldl (fun u e => match e with
         | .sent y => u.endBlockSent y
         | .notice => u.drain
         | .reply => u.endIfOver) { u with gaps := u.gaps.tail }
     let e := (s.buf.desc d).egress
     let s1 : State := match e.a, e.b, e.l with
       | false, false, false => s
       | true, false, false => copy (gap s) .a
       | false, true, false => copy (gap s) .b
       | false, false, true => copy (gap s) .l
       | true, true, false => copy (gap (copy (gap s) .a)) .b
       | true, false, true => copy (gap (copy (gap s) .a)) .l
       | false, true, true => copy (gap (copy (gap s) .b)) .l
       | true, true, true => copy (gap (copy (gap (copy (gap s) .a)) .b)) .l
     s.admitBlock d =
       if (s1.buf.desc d).tickets = 0 then s1.freeDesc d
       else { s1 with buf := { s1.buf with descs := s1.buf.descs.modify d fun v => { v with state := .queued } } }) ∧
    ∀ x : Line,
      let v := s.buf.desc d
      let q := s.tx.get x
      let limit := match v.cls with
        | .urgent => (s.config.get x).urgentLimit
        | .normal => (s.config.get x).normalLimit
      let queue := match v.cls with
        | .urgent => q.urgent
        | .normal => q.normal
      let occupancy :=
        (queue.map fun k => if k < 190 then (s.buf.desc (s.buf.ticket k).desc).chain.length else 0).sum
      (s.buf.freeTickets = [] →
        s.admitCopy d x =
          { s with
            count :=
              { s.count with
                tx := s.count.tx.set x
                  { s.count.tx.get x with
                    ticketExhausted := min ((s.count.tx.get x).ticketExhausted + 1) 4294967295 } } }) ∧
      (∀ k rest, s.buf.freeTickets = k :: rest → limit < occupancy + v.chain.length →
        s.admitCopy d x =
          { s with
            buf :=
              { s.buf with
                freeTickets := k :: rest
                tickets := s.buf.tickets.modify k fun t => { t with desc := d, line := x, cls := v.cls } }
            count :=
              { s.count with
                tx := s.count.tx.set x
                  { s.count.tx.get x with queueFull := min ((s.count.tx.get x).queueFull + 1) 4294967295 } } } ∧
        ((s.buf.ticket k).state = .free → ((s.admitCopy d x).buf.ticket k).state = .free) ∧
        ∀ n, n ≠ k → (s.admitCopy d x).buf.ticket n = s.buf.ticket n) ∧
      (∀ k rest, s.buf.freeTickets = k :: rest → occupancy + v.chain.length ≤ limit →
        s.admitCopy d x =
          { s with
            buf :=
              { s.buf with
                freeTickets := rest
                tickets := s.buf.tickets.modify k fun _ => ⟨.waiting, d, x, v.cls, 0⟩
                descs := s.buf.descs.modify d fun v => { v with tickets := v.tickets + 1 } }
            tx := s.tx.set x (match v.cls with
              | .urgent => { q with urgent := q.urgent ++ [k] }
              | .normal => { q with normal := q.normal ++ [k] }) })

/-- For one block the admitted copies, the ticket-exhausted drops and the queue-full drops added together equal the
number of lines in its captured egress set, whatever falls in the gaps between the claims (R97). The admitted copies are the
tickets that joined the queues, the reply's and the notice's own tickets 190 and 191 aside, and also what the block's general
descriptor counts more: the latter where none of the tickets in transmission names it, each of them stands in one
transmitter alone, and none on the free list (R43), and the block is no request of the session, or where nothing falls in
the gaps. -/
def Obligations.EveryCopyIsCountedOnce : Prop :=
  ∀ (s : State) (d : Nat),
    (∀ x, (s.count.tx.get x).ticketExhausted < 4294967295 ∧ (s.count.tx.get x).queueFull < 4294967295) →
    190 ∉ s.buf.freeTickets → 191 ∉ s.buf.freeTickets →
    let u := State.admitCopies d (s.buf.desc d).egress.members s
    let total := fun (f : Line → Nat) => f .a + f .b + f .l
    let drops := fun (v : State) =>
      total fun x => (v.count.tx.get x).ticketExhausted + (v.count.tx.get x).queueFull
    let queued := fun (v : State) =>
      total fun x => (((v.tx.get x).urgent ++ (v.tx.get x).normal).filter fun k => k ≠ 190 ∧ k ≠ 191).length
    queued u + drops u = queued s + drops s + (s.buf.desc d).egress.members.length ∧
    (d < 126 → d < s.buf.descs.length →
      ((∀ x k, (s.tx.get x).ticket = some k →
          (s.buf.ticket k).desc ≠ d ∧ k ∉ s.buf.freeTickets ∧ ∀ y, y ≠ x → (s.tx.get y).ticket ≠ some k) ∧
        ∀ ss, s.engine.session = some ss → ss.request ≠ d) ∨
        s.gaps = [] →
      (u.buf.desc d).tickets + drops u = (s.buf.desc d).tickets + drops s + (s.buf.desc d).egress.members.length)

/-! ### Transmitters -/

/-- A selection that takes nothing leads to FILL and begins a fill pair with the sync pair then configured: under an
asserted hold the run count stays; with both queues empty it becomes 0. A gap pair that is not the last is counted down
and the next begun. At the pair's end TDx has its last bit (R179). The last two clauses, that the end of a pair in a state
that sends none changes nothing, are the model's choice (log 1). -/
def Obligations.PairsAreSentWhileNothingIsTaken : Prop :=
  ∀ (s : State) (x : Line) (hold : Bool) (further : List Bool),
    let idle :=
      { (s.tx.get x).atSelection with
        state := .fill, out := .pair (s.config.get x).syn1 (s.config.get x).syn2 }
    (∀ i : Instr, s.selects i x hold further → hold = true → exec i s = .next { s with tx := s.tx.set x idle }) ∧
    (∀ i : Instr, s.selects i x hold further → hold = false → (s.tx.get x).urgent = [] → (s.tx.get x).normal = [] →
      exec i s = .next { s with tx := s.tx.set x { idle with run := 0 } }) ∧
    (s.quiet = true → (s.tx.get x).state = .gap → 2 ≤ (s.tx.get x).gapLeft →
      exec (.gapPairEnd x hold further) s = .next
        { s with
          tx := s.tx.set x
            { (s.tx.get x).sentOut with
              gapLeft := (s.tx.get x).gapLeft - 1
              out := .pair (s.config.get x).syn1 (s.config.get x).syn2 } }) ∧
    (s.quiet = true → (s.tx.get x).state ≠ .gap → exec (.gapPairEnd x hold further) s = .next s) ∧
    (s.quiet = true → (s.tx.get x).state ≠ .fill → exec (.fillPairEnd x hold further) s = .next s)

/-- A selection with hold negated takes the head that the run limit gives; a head that is not stale becomes SENDING and
its block is what TDx carries next. -/
def Obligations.SelectionTakesAHead : Prop :=
  ∀ (s : State) (i : Instr) (x : Line) (further : List Bool) (c : QClass) (k run : Nat),
    s.selects i x false further → (s.tx.get x).heads c k run →
    ((s.config.get x).ageLimit = 0 ∨ (s.buf.ticket k).age ≤ (s.config.get x).ageLimit) →
    exec i s = .next
      { s with
        tx := s.tx.set x
          { (s.tx.get x).atSelection with
            urgent := if c = .urgent then (s.tx.get x).urgent.tail else (s.tx.get x).urgent
            normal := if c = .normal then (s.tx.get x).normal.tail else (s.tx.get x).normal
            state := .sending, ticket := some k, run := run
            out := .block (s.buf.onTheLine (s.buf.ticket k).desc) }
        buf := { s.buf with tickets := s.buf.tickets.modify k fun v => { v with state := .sending } } }

/-- A stale head is released with cause stale drop and counted, the run count not being raised, and a further selection
follows from the queues as the discard left them; that HLDx then has the next level the command gives, or negated where
it gives none, is the model's choice (log 8), and so is that the released ticket and a descriptor it frees keep their other
fields (log 11). -/
def Obligations.StaleHeadIsDropped : Prop :=
  ∀ (s : State) (i : Instr) (x : Line) (further : List Bool) (c : QClass) (k run : Nat),
    s.selects i x false further → (s.tx.get x).heads c k run → (s.config.get x).ageLimit ≠ 0 →
    (s.config.get x).ageLimit < (s.buf.ticket k).age →
    ∃ u, exec i s = .next (u.select x (further.headD false) further.tail) ∧
      u.tx.get x =
        { (s.tx.get x).atSelection with
          urgent := if c = .urgent then (s.tx.get x).urgent.tail else (s.tx.get x).urgent
          normal := if c = .normal then (s.tx.get x).normal.tail else (s.tx.get x).normal
          run := if (s.tx.get x).normal = [] then 0 else (s.tx.get x).run } ∧
      s.releases u k false ∧ (∀ d, u.buf.desc d = s.buf.afterReleases [k] d) ∧
      u.count.tx.get x =
        { s.count.tx.get x with staleDrops := min ((s.count.tx.get x).staleDrops + 1) 4294967295 } ∧
      s.changesOnly u [.tx x, .tickets, .pools, .descs, .emitter, .txCount x, .engineCount]

/-- No stale ticket is ever taken for sending, however many further selections an event makes. -/
def Obligations.NoStaleTicketIsSent : Prop :=
  ∀ (s t : State) (i : Instr) (x : Line) (hold : Bool) (further : List Bool) (k : Nat),
    s.selects i x hold further → exec i s = .next t → (t.tx.get x).state = .sending → (t.tx.get x).ticket = some k →
    (s.config.get x).ageLimit = 0 ∨ (t.buf.ticket k).age ≤ (s.config.get x).ageLimit

/-- The end of a block in transmission: its ticket is released with cause sent, blocks sent and octets sent are counted,
the transmitter enters GAP with the configured gap, and the descriptor loses a ticket or, with its last, is freed with
its chain. That the released ticket and a freed descriptor keep their other fields is the model's choice (log 11). -/
def Obligations.BlockSentReleasesItsTicket : Prop :=
  ∀ (s : State) (x : Line) (k d : Nat), s.quiet = true → (s.tx.get x).state = .sending →
    (s.tx.get x).ticket = some k → k < s.buf.tickets.length → (s.buf.ticket k).desc = d → s.buf.descs.length = 128 →
    d < 128 → (s.buf.desc d).state = .queued → 1 ≤ (s.buf.desc d).tickets →
    ∃ t, exec (.blockSent x) s = .next t ∧
      t.tx.get x =
        { (s.tx.get x).sentOut with
          state := .gap, ticket := none, gapLeft := (s.config.get x).gapPairs
          out := .pair (s.config.get x).syn1 (s.config.get x).syn2 } ∧
      t.count.tx.get x =
        { s.count.tx.get x with
          blocksSent := min ((s.count.tx.get x).blocksSent + 1) 4294967295
          octetsSent := min ((s.count.tx.get x).octetsSent + ((s.buf.desc d).len + 6)) 4294967295 } ∧
      s.releases t k true ∧ (t.buf.ticket k).state = .free ∧ (∀ m, m ≠ k → t.buf.ticket m = s.buf.ticket m) ∧
      t.buf.freeTickets = (if k < 190 then s.buf.freeTickets ++ [k] else s.buf.freeTickets) ∧
      (∀ m, m ≠ d → t.buf.desc m = s.buf.desc m) ∧
      (2 ≤ (s.buf.desc d).tickets →
        t.buf.desc d = { s.buf.desc d with tickets := (s.buf.desc d).tickets - 1 } ∧
        t.buf.freeCells = s.buf.freeCells ∧ t.buf.freePart = s.buf.freePart ∧ t.buf.freeDescs = s.buf.freeDescs ∧
        t.emitter = s.emitter) ∧
      ((s.buf.desc d).tickets = 1 →
        (t.buf.desc d).state = .free ∧ (t.buf.desc d).chain = [] ∧ (t.buf.desc d).tickets = 0 ∧
        (d < 126 →
          t.buf.freeCells = s.buf.freeCells ++ (s.buf.desc d).chain ∧ t.buf.freeDescs = s.buf.freeDescs ++ [d] ∧
          t.buf.freePart = s.buf.freePart ∧ t.emitter = s.emitter.hear (s.buf.freedEvents d)) ∧
        (126 ≤ d →
          t.buf.freePart = s.buf.freePart ++ (s.buf.desc d).chain ∧ t.buf.freeCells = s.buf.freeCells ∧
          t.buf.freeDescs = s.buf.freeDescs ∧ t.emitter = s.emitter)) ∧
      s.changesOnly t [.tx x, .tickets, .pools, .descs, .emitter, .txCount x]

/-! ### The Management Engine -/

/-- A session is taken for the head of the management queue: the walk stands at text octet 1, the reply descriptor is
BUILDING with its first partition cell alone, its chain having been left empty when it was freed (R40), and sessions is
counted. That the walk outcome is ended at the take itself for a text of 0 octets is the model's reading of R125 and R128
(log 18, DEDUCED). -/
def Obligations.SessionIsTaken : Prop :=
  ∀ (s : State) (d c : Nat) (rest cells : List Nat) (x : Line), s.resetHigh = false → s.engine.state = .idle →
    (s.buf.desc 126).state = .free → s.engine.queue = d :: rest → s.buf.freePart = c :: cells →
    (s.buf.desc d).ingress = some x →
    ∃ t, exec .sessionTake s = .next t ∧
      t =
        { s with
          engine :=
            { state := .executing, queue := rest
              session := some ⟨d, 1, 0, 0, if (s.buf.desc d).len = 0 then .ended else .walking⟩ }
          buf :=
            { s.buf with
              freePart := cells
              descs := s.buf.descs.modify 126 fun v =>
                { v with
                  state := .building, origin := .reply, ingress := none, mark := false, cls := .urgent
                  egress := ⟨x = .a, x = .b, x = .l⟩, chain := v.chain ++ [c] } }
          count :=
            { s.count with
              engine := { s.count.engine with sessions := min (s.count.engine.sessions + 1) 4294967295 } } } ∧
      (126 < s.buf.descs.length → (s.buf.desc 126).chain = [] → (s.buf.desc 126).tickets = 0 →
        (s.buf.desc 126).bound = .none →
        t.buf.desc 126 =
          { s.buf.desc 126 with
            state := .building, origin := .reply, ingress := none, mark := false, cls := .urgent
            egress := ⟨x = .a, x = .b, x = .l⟩, chain := [c], tickets := 0, bound := .none })

/-- The fate of the record at the walk position, by the steps of R128 in order. -/
def Obligations.RecordFateByTheSteps : Prop :=
  ∀ (s : State) (ss : Session), ss.position ≤ (s.buf.desc ss.request).len →
    let left := (s.buf.desc ss.request).len + 1 - ss.position
    let code := s.buf.storedOctet ss.request (5 + ss.position)
    let tag := s.buf.storedOctet ss.request (6 + ss.position)
    let plen := (s.buf.storedOctet ss.request (7 + ss.position)).toNat
    let params := (List.range plen).map fun i => s.buf.storedOctet ss.request (8 + ss.position + i)
    let table : List (Nat × Nat) :=
      [(0, 14), (13, 4), (1, 18), (1, 4), (2, 6), (4, 4), (8, 5), (10, 4), (3, 5), (1, 16), (2, 5), (3, 58), (5, 4),
        (1, 4), (0, 4), (0, 4)]
    let known := 1 ≤ code.toNat ∧ code.toNat ≤ 16
    let row := table.getD (code.toNat - 1) (0, 4)
    let largest := if s.engine.state = .reinitPending then 4 else if known then row.2 else 4
    s.fateOf ss =
      if ss.results = 16 then .truncated
      else if left < 3 then .malformed code (if left = 1 then 0 else tag)
      else if left - 3 < plen then .malformed code tag
      else if 378 < ss.replyLen + largest + 4 then .truncated
      else if s.engine.state = .reinitPending then .skipped ⟨code, tag, plen⟩
      else if ¬known then .unknown ⟨code, tag, plen⟩
      else if plen ≠ row.1 then .badLength ⟨code, tag, plen⟩
      else .request ⟨code, tag, plen⟩ params

/-- A delimited record's answer: the result record CODE, TAG, STATUS (by the codes of section 1.8), DLEN and data is written behind the reply text so
far, into partition cells claimed as they are needed; the walk passes the record, and its outcome becomes ended at this
same event where the record is the last (the model's reading of R125, R127 and R128, log 18, DEDUCED); requests executed
counts the statuses from OK to LOCKOUT. -/
def Obligations.AnswerWritesAResultRecord : Prop :=
  ∀ (s : State) (ss : Session) (h : RecordHead) (status : Status) (data : List Byte),
    s.engine.session = some ss → data.length ≤ 54 → s.buf.replyReady ss.replyLen (4 + data.length) →
    let t := s.answer h status data
    let pos := ss.position + 3 + h.plen
    let code : Byte := match status with
      | .ok => 0x00
      | .unknownRequest => 0x01
      | .badLength => 0x02
      | .badParameter => 0x03
      | .keyExists => 0x04
      | .tableFull => 0x05
      | .noSuchSlot => 0x06
      | .keyMismatch => 0x07
      | .lockout => 0x08
      | .malformed => 0x09
      | .skipped => 0x0A
      | .truncated => 0x0B
    t.buf.replyText (ss.replyLen + 4 + data.length) =
        s.buf.replyText ss.replyLen ++ [h.code, h.tag, code, BitVec.ofNat 8 data.length] ++ data ∧
      t.buf.replyReady (ss.replyLen + 4 + data.length) 0 ∧
      s.writesReply t (6 + ss.replyLen) (4 + data.length) ∧
      t.engine =
        { s.engine with
          session := some
            ⟨ss.request, pos, ss.results + 1, ss.replyLen + 4 + data.length,
              if (s.buf.desc ss.request).len < pos then .ended else .walking⟩ } ∧
      t.count.engine =
        (if code.toNat ≤ 8 then
          { s.count.engine with executed := min (s.count.engine.executed + 1) 4294967295 }
        else s.count.engine) ∧
      s.changesOnly t [.cells, .pools, .descs, .engine, .engineCount]

/-- The records that carry no request out: SKIPPED, UNKNOWN-REQUEST and BAD-LENGTH are answered and passed; a record that
runs past the text is answered MALFORMED, in the partition cells that its octets need and no more, and ends the walk; a record stopped at step 1 or 3 writes nothing, moves
nothing, and ends the walk as truncated. -/
def Obligations.RecordsThatAreNotCarriedOut : Prop :=
  ∀ (s : State) (ss : Session),
    (∀ h, s.walks ss (.skipped h) → exec .skippedRecord s = .next (s.answer h .skipped [])) ∧
    (∀ h, s.walks ss (.unknown h) → exec .unknownRequestRecord s = .next (s.answer h .unknownRequest [])) ∧
    (∀ h, s.walks ss (.badLength h) → exec .badLengthRecord s = .next (s.answer h .badLength [])) ∧
    (s.walks ss .truncated →
      exec .walkTruncation s = .next
        { s with engine := { s.engine with session := some { ss with outcome := .truncated } } }) ∧
    (∀ code tag, s.walks ss (.malformed code tag) → s.buf.replyReady ss.replyLen 4 →
      ∃ t, exec .malformedRecord s = .next t ∧
        t.buf.replyText (ss.replyLen + 4) = s.buf.replyText ss.replyLen ++ [code, tag, 0x09, 0] ∧
        t.buf.replyReady (ss.replyLen + 4) 0 ∧
        s.writesReply t (6 + ss.replyLen) 4 ∧
        t.engine =
          { s.engine with
            session := some
              { ss with results := ss.results + 1, replyLen := ss.replyLen + 4, outcome := .malformed } } ∧
        s.changesOnly t [.cells, .pools, .descs, .engine])

/-- The session's end: a truncated walk's closing record is written, the reply header is written with the own station
address of this event, the reply's chain holds the cells its text needs and no more (R132), the request is freed, the reply is QUEUED at the tail of the URGENT queue of the request's line
with ticket 190 at age 0, and an EXECUTING engine enters IDLE. What is listed for the gap between the freeing and the
enqueue falls there, so that a notice that BUFFER-RECOVERED makes due may take its place ahead of the reply (R134, R174; the
list is the model's form, log 21). That the freed request keeps its other fields is the model's choice (log 11). -/
def Obligations.SessionEndQueuesTheReply : Prop :=
  ∀ (s : State) (ss : Session) (x : Line), s.quiet = true → s.unflushed = [] → s.engine.session = some ss →
    ss.outcome ≠ .walking → ss.request < 126 → (s.buf.desc ss.request).ingress = some x → ss.replyLen ≤ 378 →
    s.buf.replyReady ss.replyLen 4 →
    let r := s.buf.desc ss.request
    let closing : List Byte := if ss.outcome = .truncated then [0, 0, 0x0B, 0] else []
    let len := ss.replyLen + closing.length
    let header := [r.src, s.self, 0xF1, r.seq, hiOctet len, loOctet len]
    ∃ m, m.buf.replyText len = s.buf.replyText ss.replyLen ++ closing ∧ m.buf.replyReady len 0 ∧
      (∀ k, k < 6 → m.buf.storedOctet 126 k = header.getD k 0) ∧
      (∃ cells, s.buf.freePart = cells ++ m.buf.freePart ∧
        m.buf.desc 126 =
          { s.buf.desc 126 with
            chain := (s.buf.desc 126).chain ++ cells, dst := r.src, src := s.self, kind := 0xF1, seq := r.seq, len
            txDst := r.src }) ∧
      m.buf.desc ss.request = { r with state := .free, chain := [], tickets := 0, bound := .none } ∧
      m.buf.freeDescs = s.buf.freeDescs ++ [ss.request] ∧ m.buf.freeCells = s.buf.freeCells ++ r.chain ∧
      m.buf.freeTickets = s.buf.freeTickets ∧ m.buf.hwCells = s.buf.hwCells ∧ m.buf.hwDescs = s.buf.hwDescs ∧
      m.buf.lowArmed =
        (s.buf.lowArmed || decide (s.buf.freeCells.length ≤ 96 ∧ 96 < s.buf.freeCells.length + r.chain.length)) ∧
      (∀ a, (∀ k, k < 6 ∨ (6 + ss.replyLen ≤ k ∧ k < 6 + len) → m.buf.replyAddress k ≠ a) →
        m.buf.mem.read a = s.buf.mem.read a) ∧
      (∀ n, n ≠ 126 → n ≠ ss.request → m.buf.desc n = s.buf.desc n) ∧
      m.emitter = s.emitter.hear (s.buf.freedEvents ss.request) ∧
      s.changesOnly m [.cells, .pools, .descs, .emitter] ∧
      let g := (s.gaps.headD []).foldl (fun u e => match e with
        | .sent y => u.endBlockSent y
        | .notice => u.drain
        | .reply => u) { m with gaps := s.gaps.tail }
      exec .sessionEnd s = .next
        { g with
          engine :=
            { s.engine with
              session := none, state := if s.engine.state = .executing then .idle else s.engine.state }
          tx := g.tx.set x { g.tx.get x with urgent := (g.tx.get x).urgent ++ [190] }
          buf :=
            { g.buf with
              tickets := g.buf.tickets.modify 190 fun _ => ⟨.waiting, 126, x, .urgent, 0⟩
              descs := g.buf.descs.modify 126 fun v => { v with state := .queued, tickets := 1 } } }

/-! ### Management requests: the state each leaves, and its answer -/

/-- IDENTIFY answers the same ten octets in every state (R142); SELF-SET writes the own station address (R162); REINIT
leaves the engine REINIT-PENDING and no other state changed (R137, R165). -/
def Obligations.IdentifySelfSetReinit : Prop :=
  ∀ (s : State) (ss : Session) (h : RecordHead) (params : List Byte),
    (s.requested ss h 0x01 params →
      exec .identify s = .next (s.answer h .ok [0xC7, 0x07, 0x30, 1, 3, 96, 0x02, 0x00, 128, 192])) ∧
    (∀ o, s.requested ss h 0x0E params → params = [o] →
      exec .selfSet s = .next ({ s with self := o }.answer h .ok [])) ∧
    (s.requested ss h 0x10 params →
      exec .reinit s = .next ({ s with engine := { s.engine with state := .reinitPending } }.answer h .ok []))

/-- LINE-SET: a record outside the ranges of section 1.7.3 is refused with BAD-PARAMETER; one that withdraws management
permission from the request's own ingress line, or from the last line that has it, with LOCKOUT; any other replaces the
line's record, and a changed sync pair restarts the line's receiver. -/
def Obligations.LineSetReplacesOrRefuses : Prop :=
  ∀ (s : State) (ss : Session) (h : RecordHead) (params : List Byte), s.requested ss h 0x02 params →
    ((∀ (x : Line) (c : LineConfig) (body : List Byte), params = x.code :: body → ¬LineConfig.validRecord body c) →
      exec .lineSet s = .next (s.answer h .badParameter [])) ∧
    ∀ (x : Line) (c : LineConfig) (body : List Byte), params = x.code :: body → LineConfig.validRecord body c →
      (c.permitted = false →
        (s.buf.desc ss.request).ingress = some x ∨ (∀ y, y ≠ x → (s.config.get y).permitted = false) →
        exec .lineSet s = .next (s.answer h .lockout [])) ∧
      (c.permitted = true ∨
          ((s.buf.desc ss.request).ingress ≠ some x ∧ ∃ y, y ≠ x ∧ (s.config.get y).permitted = true) →
        ((s.config.get x).syn1 = c.syn1 → (s.config.get x).syn2 = c.syn2 →
          exec .lineSet s = .next ({ s with config := s.config.set x c }.answer h .ok [])) ∧
        ((s.config.get x).syn1 ≠ c.syn1 ∨ (s.config.get x).syn2 ≠ c.syn2 →
          ∃ u, exec .lineSet s = .next (u.answer h .ok []) ∧
            State.restarted { s with config := s.config.set x c } u x))

/-- LINE-GET reports the line's record and its receiver's state code of section 1.8, and changes nothing else (R147); LINE-RESTART restarts
the receiver in any state and counts nothing (R148). An invalid line code is BAD-PARAMETER. -/
def Obligations.LineGetAndLineRestart : Prop :=
  ∀ (s : State) (ss : Session) (h : RecordHead) (code : Byte),
    let lineCode : Line → Byte := fun
      | .a => 0
      | .b => 1
      | .l => 2
    (∀ x : Line, code = lineCode x → s.requested ss h 0x03 [code] →
      let c := s.config.get x
      let state : Byte := match (s.rx.get x).state with
        | .hunt => 0
        | .confirm => 1
        | .gap => 2
        | .gapSyn => 3
        | .header => 4
        | .body => 5
        | .check => 6
      exec .lineGet s = .next (s.answer h .ok
        [code, c.syn1, c.syn2, BitVec.ofNat 8 c.gapPairs, hiOctet c.deadline, loOctet c.deadline, hiOctet c.ageLimit,
          loOctet c.ageLimit, hiOctet c.urgentLimit, loOctet c.urgentLimit, hiOctet c.normalLimit,
          loOctet c.normalLimit, if c.permitted then 1 else 0, state])) ∧
    (∀ x : Line, code = lineCode x → s.requested ss h 0x04 [code] →
      ∃ u, exec .lineRestart s = .next (u.answer h .ok []) ∧ s.restarted u x) ∧
    (3 ≤ code.toNat → s.requested ss h 0x03 [code] → exec .lineGet s = .next (s.answer h .badParameter [])) ∧
    (3 ≤ code.toNat → s.requested ss h 0x04 [code] → exec .lineRestart s = .next (s.answer h .badParameter []))

/-- QUEUE-FLUSH: every ticket of the named queues is released with cause flush, general tickets going to the tail of
their free list, URGENT first and from head to tail; tickets flushed counts each, and the result is their number. That the
released tickets and the descriptors they free keep their other fields is the model's choice (log 11). -/
def Obligations.QueueFlushReleasesTheTickets : Prop :=
  ∀ (s : State) (ss : Session) (h : RecordHead) (code set : Byte), s.requested ss h 0x05 [code, set] →
    (3 ≤ code.toNat ∨ set.toNat = 0 ∨ 4 ≤ set.toNat →
      exec .queueFlush s = .next (s.answer h .badParameter [])) ∧
    (∀ x : Line, code = x.code → 1 ≤ set.toNat → set.toNat ≤ 3 →
      let q := s.tx.get x
      let gone := (if set = 2 then [] else q.urgent) ++ (if set = 1 then [] else q.normal)
      ∃ u, exec .queueFlush s = .next (u.answer h .ok [hiOctet gone.length, loOctet gone.length]) ∧
        u.tx.get x =
          { q with urgent := if set = 2 then q.urgent else [], normal := if set = 1 then q.normal else [] } ∧
        u.buf.freeTickets = s.buf.freeTickets ++ gone.filter (fun k => decide (k < 190)) ∧
        (∀ k ∈ gone, k < s.buf.tickets.length → (u.buf.ticket k).state = .free) ∧
        (∀ k, k ∉ gone → u.buf.ticket k = s.buf.ticket k) ∧ (∀ d, u.buf.desc d = s.buf.afterReleases gone d) ∧
        u.count.tx.get x =
          { s.count.tx.get x with flushed := min ((s.count.tx.get x).flushed + gone.length) 4294967295 } ∧
        (∃ f, s.flushesTickets f gone ∧ u = { f with tx := u.tx, count := { f.count with tx := u.count.tx } }) ∧
        s.changesOnly u [.tx x, .tickets, .pools, .descs, .emitter, .txCount x, .engineCount])

/-- FLUSH-ALL makes its three changes together (R163): it releases every ticket of the six queues with cause flush, counts
the tickets flushed on each line and lost replies, and frees what the tickets leave without one (R116, R46); it restarts
the three receivers, each giving back its block with its bind and raising SYNC-LOST where it was in sync (R32); and it
frees every waiting management block unanswered (R138). It spares the session, the routes but for the binds given back, the
configurations and every other counter. Each part is one event at its own resource, which takes it in its own order with
its other events (R92, R117): those listed for a step are made at it, in that order, the others at later steps, and all
before the engine's next step (R127). The order where none is listed, and the list, are the model's choice (log 13); that
freed descriptors and released tickets keep their other fields is its choice too (log 11). -/
def Obligations.FlushAllEmptiesThePart : Prop :=
  (∀ (s : State) (ss : Session) (h : RecordHead) (params : List Byte), s.requested ss h 0x0F params →
    let gone := s.tx.a.urgent ++ s.tx.a.normal ++ s.tx.b.urgent ++ s.tx.b.normal ++ s.tx.l.urgent ++ s.tx.l.normal
    let emptied := fun (x : Line) => { s.tx.get x with urgent := [], normal := [] }
    let flushed := fun (x : Line) =>
      { s.count.tx.get x with
        flushed :=
          min ((s.count.tx.get x).flushed + ((s.tx.get x).urgent.length + (s.tx.get x).normal.length)) 4294967295 }
    let all : List FlushPart :=
      [.queues .a, .queues .b, .queues .l, .receiver .a, .receiver .b, .receiver .l, .management]
    (exec .flushAll s = .next
      (State.answer
        ((s.flushes.headD all).foldl State.makePart { s with unflushed := all, flushes := s.flushes.tail }) h .ok [])) ∧
    (s.flushes.headD all = all →
      ∃ f r1 r2 r3 u, exec .flushAll s = .next (u.answer h .ok []) ∧
        s.flushesTickets f gone ∧ f.buf.freeTickets = s.buf.freeTickets ++ gone.filter (fun k => decide (k < 190)) ∧
        (∀ k, f.buf.ticket k =
          if k ∈ gone then { s.buf.ticket k with state := .free } else s.buf.ticket k) ∧
        (∀ d, f.buf.desc d = s.buf.afterReleases gone d) ∧
        State.restarted
          { f with
            tx := ⟨emptied .a, emptied .b, emptied .l⟩
            count := { f.count with tx := ⟨flushed .a, flushed .b, flushed .l⟩ }
            flushes := s.flushes.tail } r1 .a ∧
        r1.restarted r2 .b ∧ r2.restarted r3 .l ∧
        State.discards { r3 with engine := { r3.engine with queue := [] } } u s.engine.queue ∧
        u.engine = { s.engine with queue := [] } ∧
        (∀ x, u.tx.get x = emptied x ∧ u.rx.get x = (s.rx.get x).hunting ∧ u.count.tx.get x = flushed x) ∧
        u.buf.tickets = f.buf.tickets ∧ u.buf.freeTickets = f.buf.freeTickets ∧ u.count.engine = f.count.engine ∧
        s.changesOnly u
          [.rx .a, .rx .b, .rx .l, .tx .a, .tx .b, .tx .l, .pools, .descs, .tickets, .slots, .engine, .emitter,
            .txCount .a, .txCount .b, .txCount .l, .engineCount, .flushes])) ∧
  (∀ (s : State) (k : FlushPart),
    let u := { s with unflushed := s.unflushed.erase k }
    (k ∉ s.unflushed → s.makePart k = s) ∧
    (k ∈ s.unflushed →
      (∀ x, k = .queues x →
        let q := s.tx.get x
        ∃ f, u.flushesTickets f (q.urgent ++ q.normal) ∧
          s.makePart k =
            { f with
              tx := s.tx.set x { q with urgent := [], normal := [] }
              count :=
                { f.count with
                  tx := s.count.tx.set x
                    { s.count.tx.get x with
                      flushed :=
                        min ((s.count.tx.get x).flushed + (q.urgent.length + q.normal.length)) 4294967295 } } }) ∧
      (∀ x, k = .receiver x → u.restarted (s.makePart k) x) ∧
      (k = .management →
        State.discards { u with engine := { s.engine with queue := [] } } (s.makePart k) s.engine.queue))) ∧
  ∀ s : State, s.quiet = true →
    let ks := s.flushes.headD []
    (ks ≠ [] → (∀ k ∈ ks, k ∈ s.unflushed) →
      exec .flushAll s = .next (ks.foldl State.makePart { s with flushes := s.flushes.tail })) ∧
    ∀ c : Instr,
      c ∈ [Instr.malformedRecord, .walkTruncation, .skippedRecord, .unknownRequestRecord, .badLengthRecord, .sessionEnd,
        .identify, .lineSet, .lineGet, .lineRestart, .queueFlush, .defaultSet, .routeInsert, .routeUpdate, .routeDelete,
        .routeRead, .routeFind, .countersRead, .noticeSet, .selfSet, .flushAll, .reinit] →
      s.unflushed ≠ [] → (c = .flushAll → ks = [] ∨ ∃ k ∈ ks, k ∉ s.unflushed) →
      ∃ t, exec .flushAll { s with flushes := s.unflushed :: s.flushes } = .next t ∧ exec c s = exec c t

/-- DEFAULT-SET replaces the line's default route by a valid body, and refuses any other. -/
def Obligations.DefaultSetReplacesTheRoute : Prop :=
  ∀ (s : State) (ss : Session) (h : RecordHead) (code : Byte) (body : List Byte),
    s.requested ss h 0x06 (code :: body) →
    (∀ (x : Line) (r : DefaultRoute), code = x.code → DefaultRoute.validBody body r →
      exec .defaultSet s = .next
        ({ s with routes := { s.routes with defaults := s.routes.defaults.set x r } }.answer h .ok [])) ∧
    (3 ≤ code.toNat ∨ (∀ r, ¬DefaultRoute.validBody body r) →
      exec .defaultSet s = .next (s.answer h .badParameter []))

/-- ROUTE-INSERT makes the lowest-numbered FREE slot ACTIVE with counters 0, bind count 0 and, for a window of 1 to 64, an
unprimed check with E 0; the refusals come in the order BAD-PARAMETER, KEY-EXISTS, TABLE-FULL. -/
def Obligations.RouteInsertTakesTheLowestFreeSlot : Prop :=
  ∀ (s : State) (ss : Session) (h : RecordHead) (line dst : Byte) (body : List Byte),
    s.requested ss h 0x07 (line :: dst :: body) →
    (3 ≤ line.toNat ∨ (∀ r w, ¬Route.validBody body r w) →
      exec .routeInsert s = .next (s.answer h .badParameter [])) ∧
    ∀ (x : Line) (r : Route) (w : Nat), line = x.code → Route.validBody body r w →
      (∀ n e, s.routes.slot n = .active e → e.keyLine = x → e.keyDst = dst →
        exec .routeInsert s = .next (s.answer h .keyExists [])) ∧
      ((∀ v ∈ s.routes.slots, v.matches x dst = false) → (∀ v ∈ s.routes.slots, v ≠ .free) →
        exec .routeInsert s = .next (s.answer h .tableFull [])) ∧
      (∀ n, (∀ v ∈ s.routes.slots, v.matches x dst = false) → s.routes.slots[n]? = some .free →
        (∀ v ∈ s.routes.slots.take n, v ≠ .free) →
        exec .routeInsert s = .next
          ({ s with
              routes :=
                { s.routes with
                  slots := s.routes.slots.set n
                    (.active ⟨x, dst, r, if w = 0 then none else some ⟨w, 0, false⟩, 0, 0, 0, 0, 0⟩) } }.answer h .ok
            [BitVec.ofNat 8 n]))

/-- ROUTE-UPDATE replaces the route fields, treats the sequence state by the two windows, and clears the counters if
asked; the key and the bind count stay. The refusals come in the order BAD-PARAMETER, NO-SUCH-SLOT, KEY-MISMATCH. -/
def Obligations.RouteUpdateKeepsKeyAndBinds : Prop :=
  ∀ (s : State) (ss : Session) (h : RecordHead) (n line dst clear : Byte) (body : List Byte), body.length = 6 →
    s.requested ss h 0x08 (n :: line :: dst :: (body ++ [clear])) →
    (3 ≤ line.toNat ∨ 2 ≤ clear.toNat ∨ (∀ r w, ¬Route.validBody body r w) →
      exec .routeUpdate s = .next (s.answer h .badParameter [])) ∧
    ∀ (x : Line) (r : Route) (w : Nat), line = x.code → clear.toNat ≤ 1 → Route.validBody body r w →
      ((∀ e, s.routes.slot n.toNat ≠ .active e) → exec .routeUpdate s = .next (s.answer h .noSuchSlot [])) ∧
      (∀ e, s.routes.slot n.toNat = .active e → ¬(e.keyLine = x ∧ e.keyDst = dst) →
        exec .routeUpdate s = .next (s.answer h .keyMismatch [])) ∧
      (∀ e, s.routes.slot n.toNat = .active e → e.keyLine = x → e.keyDst = dst →
        let check : Option SeqCheck :=
          if w = 0 then none
          else match e.seqCheck with
            | none => some ⟨w, 0, false⟩
            | some k => some ⟨w, k.expected, k.primed⟩
        let kept := fun (m : Nat) => if clear = 1 then 0 else m
        exec .routeUpdate s = .next
          ({ s with
              routes :=
                { s.routes with
                  slots := s.routes.slots.set n.toNat
                    (.active
                      ⟨e.keyLine, e.keyDst, r, check, kept e.blocks, kept e.octets, kept e.duplicates, kept e.gaps,
                        e.binds⟩) } }.answer h .ok []))

/-- ROUTE-DELETE frees a slot without binds and retires one with binds, and answers which; the refusals come in the order
BAD-PARAMETER, NO-SUCH-SLOT, KEY-MISMATCH. -/
def Obligations.RouteDeleteFreesOrRetires : Prop :=
  ∀ (s : State) (ss : Session) (h : RecordHead) (n line dst : Byte), s.requested ss h 0x09 [n, line, dst] →
    (3 ≤ line.toNat → exec .routeDelete s = .next (s.answer h .badParameter [])) ∧
    ∀ x : Line, line = x.code →
      ((∀ e, s.routes.slot n.toNat ≠ .active e) → exec .routeDelete s = .next (s.answer h .noSuchSlot [])) ∧
      (∀ e, s.routes.slot n.toNat = .active e → ¬(e.keyLine = x ∧ e.keyDst = dst) →
        exec .routeDelete s = .next (s.answer h .keyMismatch [])) ∧
      (∀ e, s.routes.slot n.toNat = .active e → e.keyLine = x → e.keyDst = dst → e.binds = 0 →
        exec .routeDelete s = .next
          ({ s with routes := { s.routes with slots := s.routes.slots.set n.toNat .free } }.answer h .ok [0x00])) ∧
      (∀ e, s.routes.slot n.toNat = .active e → e.keyLine = x → e.keyDst = dst → 0 < e.binds →
        exec .routeDelete s = .next
          ({ s with
              routes := { s.routes with slots := s.routes.slots.set n.toNat (.retiring e) } }.answer h .ok [0x02]))

/-- ROUTE-READ reports an ACTIVE slot in twelve octets, what the slot does not have reading 0 (R77, R155); ROUTE-FIND
answers with the number of the ACTIVE slot that has the key (R156). Neither changes the table. -/
def Obligations.RouteReadAndRouteFind : Prop :=
  ∀ (s : State) (ss : Session) (h : RecordHead),
    (∀ n : Byte, s.requested ss h 0x0A [n] →
      ((∀ e, s.routes.slot n.toNat ≠ .active e) → exec .routeRead s = .next (s.answer h .noSuchSlot [])) ∧
      (∀ e, s.routes.slot n.toNat = .active e →
        let body : List Byte := match e.route with
          | .forward g c (some v) =>
            [0, (if g.a then 1 else 0) + (if g.b then 2 else 0) + (if g.l then 4 else 0), if c = .urgent then 1 else 0,
              1, v]
          | .forward g c none =>
            [0, (if g.a then 1 else 0) + (if g.b then 2 else 0) + (if g.l then 4 else 0), if c = .urgent then 1 else 0,
              0, 0]
          | .discard => [1, 0, 0, 0, 0]
        let check : List Byte := match e.seqCheck with
          | some k => [BitVec.ofNat 8 k.window, k.expected, if k.primed then 1 else 0]
          | none => [0, 0, 0]
        exec .routeRead s = .next
          (s.answer h .ok ([n, e.keyLine.code, e.keyDst] ++ body ++ check ++ [BitVec.ofNat 8 e.binds])))) ∧
    (∀ line dst : Byte, s.requested ss h 0x0B [line, dst] →
      (3 ≤ line.toNat → exec .routeFind s = .next (s.answer h .badParameter [])) ∧
      ∀ x : Line, line = x.code →
        ((∀ v ∈ s.routes.slots, v.matches x dst = false) →
          exec .routeFind s = .next (s.answer h .noSuchSlot [])) ∧
        (∀ n e, s.KeysUnique → s.routes.slot n = .active e → e.keyLine = x → e.keyDst = dst →
          exec .routeFind s = .next (s.answer h .ok [BitVec.ofNat 8 n])))

/-- COUNTERS-READ reports the members of a group in member order, four octets each with the high octet first, and with
clear 1 clears the group named, for the subject named, after its values are taken: counters become 0, the two high-water
marks become the numbers in use. -/
def Obligations.CountersReadReportsAndClears : Prop :=
  ∀ (s : State) (ss : Session) (h : RecordHead) (group subject clear : Byte),
    s.requested ss h 0x0C [group, subject, clear] →
    let report := fun (u : State) (members : List Nat) =>
      exec .countersRead s = .next ((if clear = 1 then u else s).answer h .ok
        ([group, subject] ++ members.flatMap fun m =>
          [BitVec.ofNat 8 (m / 16777216), BitVec.ofNat 8 (m / 65536), BitVec.ofNat 8 (m / 256), BitVec.ofNat 8 m]))
    (2 ≤ clear.toNat ∨ 5 ≤ group.toNat ∨ (group.toNat ≤ 1 ∧ 3 ≤ subject.toNat) ∨
        (3 ≤ group.toNat ∧ subject ≠ 0) →
      exec .countersRead s = .next (s.answer h .badParameter [])) ∧
    (clear.toNat ≤ 1 →
      (∀ x : Line, group = 0 → subject = x.code →
        let c := s.count.rx.get x
        report { s with count := { s.count with rx := s.count.rx.set x {} } }
          [c.goodBlocks, c.goodOctets, c.checkFailures, c.headerFaults, c.syncLosses, c.syncAcquisitions,
            c.deadlineAbandons, c.descExhausted, c.bufferExhausted, c.mgmtRefused, c.strayToSelf, c.defaultHits,
            c.retiredCompletions]) ∧
      (∀ x : Line, group = 1 → subject = x.code →
        let c := s.count.tx.get x
        report { s with count := { s.count with tx := s.count.tx.set x {} } }
          [c.blocksSent, c.octetsSent, c.staleDrops, c.queueFull, c.ticketExhausted, c.flushed]) ∧
      (group = 2 → s.routes.slot subject.toNat = .free →
        exec .countersRead s = .next (s.answer h .noSuchSlot [])) ∧
      (∀ e, group = 2 → s.routes.slot subject.toNat = .active e →
        report
          { s with
            routes :=
              { s.routes with
                slots := s.routes.slots.set subject.toNat
                  (.active { e with blocks := 0, octets := 0, duplicates := 0, gaps := 0 }) } }
          [e.blocks, e.octets, e.duplicates, e.gaps]) ∧
      (∀ e, group = 2 → s.routes.slot subject.toNat = .retiring e →
        report
          { s with
            routes :=
              { s.routes with
                slots := s.routes.slots.set subject.toNat
                  (.retiring { e with blocks := 0, octets := 0, duplicates := 0, gaps := 0 }) } }
          [e.blocks, e.octets, e.duplicates, e.gaps]) ∧
      (group = 3 → subject = 0 →
        report
          { s with
            buf :=
              { s.buf with
                hwCells := 494 - s.buf.freeCells.length, hwDescs := 126 - s.buf.freeDescs.length } }
          [s.buf.freeCells.length, s.buf.freeDescs.length, s.buf.freeTickets.length, s.buf.hwCells, s.buf.hwDescs]) ∧
      (group = 4 → subject = 0 →
        let c := s.count.engine
        report { s with count := { s.count with engine := {} } } [c.sessions, c.executed, c.overflows, c.repliesLost]))

/-- NOTICE-SET writes the four configuration items and empties the pending set; enabling expires the interval timer,
disabling leaves it, and the notice sequence number stays in both. -/
def Obligations.NoticeSetConfiguresTheEmitter : Prop :=
  ∀ (s : State) (ss : Session) (h : RecordHead) (enable station line i1 i0 : Byte),
    s.requested ss h 0x0D [enable, station, line, i1, i0] →
    (2 ≤ enable.toNat ∨ 3 ≤ line.toNat ∨ wordOf i1 i0 < 10 ∨ 10000 < wordOf i1 i0 →
      exec .noticeSet s = .next (s.answer h .badParameter [])) ∧
    (∀ x : Line, enable.toNat ≤ 1 → line = x.code → 10 ≤ wordOf i1 i0 → wordOf i1 i0 ≤ 10000 →
      exec .noticeSet s = .next
        ({ s with
            emitter :=
              { enabled := decide (enable = 1), station, line := x, interval := wordOf i1 i0, pending := {}
                timer := if enable = 1 then .expired else s.emitter.timer
                seq := s.emitter.seq, inbox := [] } }.answer h .ok []))

/-! ### The Notice Emitter -/

/-- A notice is built where notices are enabled, records are pending, the timer is expired and the notice descriptor is
FREE: the records, four octets each (EVENT 0x01 to 0x06, SUBJECT, COUNT with the high octet first) in ascending order of
EVENT and then of SUBJECT (R10), go into one partition cell behind the header, the pending set is emptied, the sequence
number advances modulo 256, the timer starts with the interval, and ticket 191 takes the tail of the URGENT queue of the
notice line. The command builds it whatever further occurrences it waits for, and the next notice has its own wait (the
model's choice, log 4). -/
def Obligations.NoticeIsBuilt : Prop :=
  ∀ (s : State) (c : Nat) (cells : List Nat), s.resetHigh = false →
    ¬(s.engine.state = .reinitPending ∧ s.engine.session = none ∧ (s.buf.desc 126).state = .free) →
    s.emitter.inbox = [] → s.emitter.enabled = true → s.emitter.pending ≠ {} → s.emitter.timer = .expired →
    (s.buf.desc 127).state = .free → (s.buf.desc 127).chain = [] → s.buf.descs.length = 128 →
    s.buf.freePart = c :: cells → c < 512 → s.buf.mem.wf = true →
    let m := s.emitter
    let p := m.pending
    let record := fun (event subject : Byte) (count : Option Nat) => match count with
      | none => []
      | some n => [event, subject, BitVec.ofNat 8 (n / 256), BitVec.ofNat 8 n]
    let text :=
      record 0x01 0 p.syncLost.a ++ record 0x01 1 p.syncLost.b ++ record 0x01 2 p.syncLost.l ++
      record 0x02 0 p.syncGained.a ++ record 0x02 1 p.syncGained.b ++ record 0x02 2 p.syncGained.l ++
      record 0x03 0 p.bufferLow ++ record 0x04 0 p.bufferRecovered ++
      record 0x05 (match p.routeFreed with
        | some r => BitVec.ofNat 8 r.subject
        | none => 0) (p.routeFreed.map (·.count)) ++
      record 0x06 (match p.mgmtOverflow with
        | some ⟨.a, _⟩ | none => 0
        | some ⟨.b, _⟩ => 1
        | some ⟨.l, _⟩ => 2) (p.mgmtOverflow.map (·.count))
    let header := [m.station, s.self, 0xF2, m.seq, hiOctet text.length, loOctet text.length]
    ∃ t, exec .noticeBuild s = .next t ∧
      t.emitter = { m with pending := {}, seq := m.seq + 1, timer := .running m.interval } ∧
      t.buf.desc 127 =
        { s.buf.desc 127 with
          state := .queued, ingress := none, origin := .notice, chain := [c], len := text.length, dst := m.station
          src := s.self, kind := 0xF2, seq := m.seq, mark := false, txDst := m.station, cls := .urgent
          egress := ⟨m.line = .a, m.line = .b, m.line = .l⟩, tickets := 1 } ∧
      (∀ n, n ≠ 127 → t.buf.desc n = s.buf.desc n) ∧
      t.buf =
        { s.buf with
          mem := t.buf.mem, freePart := cells, descs := t.buf.descs
          tickets := s.buf.tickets.set 191 ⟨.waiting, 127, m.line, .urgent, 0⟩ } ∧
      t.buf.text 127 = text ∧ (∀ k, k < 6 → t.buf.storedOctet 127 k = header.getD k 0) ∧
      (∀ a, a < 64 * c ∨ 64 * c + 6 + text.length ≤ a → t.buf.mem.read a = s.buf.mem.read a) ∧
      t.tx.get m.line = { s.tx.get m.line with urgent := (s.tx.get m.line).urgent ++ [191] } ∧
      t.awaits = s.awaits.tail ∧ s.changesOnly t [.tx m.line, .cells, .pools, .descs, .tickets, .emitter, .awaits]

/-- An event reaches the emitter while notices are enabled and is then recorded under its key as it is taken: its COUNT
rises, staying at 65535, and ROUTE-FREED and MGMT-OVERFLOW keep the subject of the occurrence taken last. While notices are
disabled it leaves the emitter as it is. The tick that lowers the interval timer to 0 leaves it expired; the command is that
tick reaching a timer at 1, in the model's reading (log 5), and a timer at 0, which no run brings about, counts as an expiry
too. That the command otherwise changes nothing is the model's choice (log 1), and what a notice may wait for is counted in
the occurrences pending, added (log 4). -/
def Obligations.EventsAndTheIntervalTimer : Prop :=
  (∀ (m : Emitter) (es : List Event),
    (m.enabled = false → m.hear es = m) ∧ (m.enabled = true → m.hear es = { m with inbox := m.inbox ++ es })) ∧
  (∀ p : PendingSet,
    let up := fun (n : Option Nat) => some (min (n.getD 0 + 1) 65535)
    (∀ x, p.record (.syncLost x) = { p with syncLost := p.syncLost.set x (up (p.syncLost.get x)) }) ∧
    (∀ x, p.record (.syncGained x) = { p with syncGained := p.syncGained.set x (up (p.syncGained.get x)) }) ∧
    p.record .bufferLow = { p with bufferLow := up p.bufferLow } ∧
    p.record .bufferRecovered = { p with bufferRecovered := up p.bufferRecovered } ∧
    (∀ n, p.record (.routeFreed n) =
      { p with routeFreed := some ⟨n, min ((p.routeFreed.map (·.count)).getD 0 + 1) 65535⟩ }) ∧
    (∀ x, p.record (.mgmtOverflow x) =
      { p with mgmtOverflow := some ⟨x, min ((p.mgmtOverflow.map (·.count)).getD 0 + 1) 65535⟩ }) ∧
    p.total =
      p.syncLost.a.getD 0 + p.syncLost.b.getD 0 + p.syncLost.l.getD 0 + p.syncGained.a.getD 0 +
        p.syncGained.b.getD 0 + p.syncGained.l.getD 0 + p.bufferLow.getD 0 + p.bufferRecovered.getD 0 +
        (p.routeFreed.map (·.count)).getD 0 + (p.mgmtOverflow.map (·.count)).getD 0) ∧
  ∀ s : State, s.quiet = true →
    let due := s.emitter.timer = .running 0 ∨ (s.emitter.timer = .running 1 ∧ TickTaker.timer ∈ s.owed)
    (due →
      exec .intervalTimerExpiry s = .next
        { s with owed := s.owed.erase .timer, emitter := { s.emitter with timer := .expired } }) ∧
    (¬due → exec .intervalTimerExpiry s = .next s)

/-! ### What every step keeps -/

/-- Every step keeps the cell contents in canonical form: rising addresses inside the buffer, and no octet listed that
reads as an unlisted one. The form, the address 64 c + k and the octet 0 that an unlisted address reads as are the model's
choice (logs 10 and 15). -/
def Obligations.StepsKeepMemoryCanonical : Prop :=
  ∀ s t : State, s.MemoryCanonical → step s = .next t → t.MemoryCanonical

/-- Every step keeps each receiver's items in agreement with its state. -/
def Obligations.StepsKeepReceiverLaw : Prop :=
  ∀ s t : State, s.ReceiverLaw → step s = .next t → t.ReceiverLaw

/-- Every step keeps the line configurations in their ranges, some line management-permitted, the transmitters' counts and
their places within a unit in their bounds, the interval and its timer in theirs, and the timebase in its own. -/
def Obligations.StepsKeepConfigurationAndBounds : Prop :=
  ∀ s t : State,
    s.ConfigLegal ∧ s.SomePermitted ∧ s.TransmitterBounds ∧ s.EmitterBounds ∧ s.TickLaw → step s = .next t →
    t.ConfigLegal ∧ t.SomePermitted ∧ t.TransmitterBounds ∧ t.EmitterBounds ∧ t.TickLaw

/-- Every step keeps the keys of the ACTIVE slots distinct. -/
def Obligations.StepsKeepKeysUnique : Prop :=
  ∀ s t : State, s.KeysUnique → step s = .next t → t.KeysUnique

/-- Every step keeps the engine's law: at most 4 waiting blocks, a session exactly where its state has one, parts of a
FLUSH-ALL to be made only within a session and each once, at most 16 results, and room in the reply for a closing
record. -/
def Obligations.StepsKeepEngineLaw : Prop :=
  ∀ s t : State, s.EngineLaw → step s = .next t → t.EngineLaw

/-- Every step keeps every cell on the free list of its part or in exactly one chain of its part, and not both. -/
def Obligations.StepsKeepCellsAccounted : Prop :=
  ∀ s t : State, s.CellsAccounted → step s = .next t → t.CellsAccounted

/-- The laws hold of the part right after reset. -/
def Obligations.LawsHoldAtReset : Prop :=
  State.reset.MemoryCanonical ∧ State.reset.ReceiverLaw ∧ State.reset.ConfigLegal ∧ State.reset.SomePermitted ∧
    State.reset.TransmitterBounds ∧ State.reset.EmitterBounds ∧ State.reset.TickLaw ∧ State.reset.KeysUnique ∧
    State.reset.EngineLaw ∧ State.reset.CellsAccounted
end

