-- ==== Sys2Proof/Laws/Memory.lean ====
section
/-! SUPPORT. Cell contents: what a write does to every read, and that every write keeps the canonical form. -/

namespace Sys2Proof.Machine

/-- An octet below every listed address reads as unlisted. -/
theorem Memory.read_below (m : Memory) (a : Nat) (h : ∀ x ∈ m, a < x.1) : Memory.read m a = Memory.unlisted := by
  induction m with
  | nil => rfl
  | cons y m ih =>
    obtain ⟨b, w⟩ := y
    have hb : a < b := h (b, w) (by simp)
    have hm : ∀ x ∈ m, a < x.1 := fun x hx => h x (by simp [hx])
    simp [Memory.read, Nat.ne_of_lt hb, ih hm]

theorem Memory.mem_insert (m : Memory) (a : Nat) (v : Byte) :
    ∀ x ∈ Memory.insert m a v, x ∈ m ∨ (x = (a, v) ∧ v ≠ Memory.unlisted) := by
  induction m with
  | nil =>
    intro x hx
    unfold Memory.insert at hx
    split at hx
    · simp at hx
    · simp_all
  | cons y m ih =>
    obtain ⟨b, w⟩ := y
    intro x hx
    unfold Memory.insert at hx
    split_ifs at hx with h1 h2 h3 h4
    · exact .inl hx
    · rcases List.mem_cons.1 hx with rfl | h
      · exact .inr ⟨rfl, h2⟩
      · exact .inl h
    · exact .inl (List.mem_cons_of_mem _ hx)
    · rcases List.mem_cons.1 hx with rfl | h
      · exact .inr ⟨rfl, h4⟩
      · exact .inl (List.mem_cons_of_mem _ h)
    · rcases List.mem_cons.1 hx with rfl | h
      · exact .inl (by simp)
      · exact (ih x h).imp (List.mem_cons_of_mem _) id

theorem Memory.pairwise_insert (m : Memory) (a : Nat) (v : Byte) (h : m.Pairwise fun x y => x.1 < y.1) :
    (Memory.insert m a v).Pairwise fun x y => x.1 < y.1 := by
  induction m with
  | nil => unfold Memory.insert; split <;> simp
  | cons y m ih =>
    obtain ⟨b, w⟩ := y
    obtain ⟨hb, hm⟩ := List.pairwise_cons.1 h
    unfold Memory.insert
    split_ifs with h1 h2 h3 h4
    · exact h
    · refine List.pairwise_cons.2 ⟨fun x hx => ?_, h⟩
      rcases List.mem_cons.1 hx with rfl | hx
      · exact h1
      · exact Nat.lt_trans h1 (hb x hx)
    · exact hm
    · subst h3; exact List.pairwise_cons.2 ⟨hb, hm⟩
    · refine List.pairwise_cons.2 ⟨fun x hx => ?_, ih hm⟩
      rcases Memory.mem_insert m a v x hx with h | ⟨rfl, -⟩
      · exact hb x h
      · show b < a; omega

theorem Memory.read_insert (m : Memory) (a : Nat) (v : Byte) (a' : Nat) (h : m.Pairwise fun x y => x.1 < y.1) :
    Memory.read (Memory.insert m a v) a' = if a' = a then v else Memory.read m a' := by
  induction m with
  | nil =>
    unfold Memory.insert
    split_ifs with h1 h2 <;> simp_all [Memory.read]
  | cons y m ih =>
    obtain ⟨b, w⟩ := y
    obtain ⟨hb, hm⟩ := List.pairwise_cons.1 h
    rcases Nat.lt_trichotomy a b with h1 | h1 | h1
    · have below : Memory.read ((b, w) :: m) a = Memory.unlisted := by
        refine Memory.read_below _ a fun x hx => ?_
        rcases List.mem_cons.1 hx with rfl | hx
        · exact h1
        · exact Nat.lt_trans h1 (hb x hx)
      unfold Memory.insert
      rw [if_pos h1]
      split_ifs with hv ha ha
      · rw [ha, below, hv]
      · rfl
      · simp [Memory.read, ha]
      · simp [Memory.read, ha]
    · subst h1
      unfold Memory.insert
      rw [if_neg (Nat.lt_irrefl a), if_pos rfl]
      split_ifs with hv ha ha
      · rw [ha, hv]; exact Memory.read_below m a hb
      · simp [Memory.read, ha]
      · simp [Memory.read, ha]
      · simp [Memory.read, ha]
    · unfold Memory.insert
      rw [if_neg (Nat.not_lt.2 (Nat.le_of_lt h1)), if_neg (Nat.ne_of_gt h1)]
      by_cases hb' : a' = b
      · subst hb'; simp [Memory.read, Nat.ne_of_lt h1]
      · simp only [Memory.read, if_neg hb', ih hm]

/-- A write is read back at its address, and every other octet reads as before. -/
theorem Memory.read_write (m : Memory) (a : Nat) (v : Byte) (a' : Nat) (h : m.wf = true) :
    Memory.read (Memory.write m a v) a' =
      if a' = a ∧ a < Config.bufferSize then v else Memory.read m a' := by
  simp only [Memory.wf, Bool.and_eq_true, decide_eq_true_eq] at h
  unfold Memory.write
  split_ifs with h1 h2 h3
  · rw [Memory.read_insert m a v a' h.1, if_pos h2.1]
  · rw [Memory.read_insert m a v a' h.1, if_neg (fun e => h2 ⟨e, h1⟩)]
  · exact absurd h3.2 h1
  · rfl

/-- A write keeps the canonical form. -/
theorem Memory.wf_write (m : Memory) (a : Nat) (v : Byte) (h : m.wf = true) : (Memory.write m a v).wf = true := by
  unfold Memory.write
  split
  case isFalse => exact h
  case isTrue ha =>
    simp only [Memory.wf, Bool.and_eq_true, decide_eq_true_eq, List.all_eq_true] at h ⊢
    refine ⟨Memory.pairwise_insert m a v h.1, fun x hx => ?_⟩
    rcases Memory.mem_insert m a v x hx with hx | ⟨rfl, hv⟩
    · exact h.2 x hx
    · exact ⟨ha, hv⟩

/-- Two canonical contents that read alike at every address are the same data. -/
theorem Memory.ext_read (m n : Memory) (hm : m.wf = true) (hn : n.wf = true)
    (h : ∀ a, Memory.read m a = Memory.read n a) : m = n := by
  simp only [Memory.wf, Bool.and_eq_true, decide_eq_true_eq, List.all_eq_true] at hm hn
  obtain ⟨pm, vm⟩ := hm
  obtain ⟨pn, vn⟩ := hn
  induction m generalizing n with
  | nil =>
    cases n with
    | nil => rfl
    | cons y n =>
      have := h y.1
      have hv := (vn y (by simp)).2
      simp [Memory.read] at this
      exact absurd this.symm hv
  | cons x m ih =>
    obtain ⟨px, qm⟩ := List.pairwise_cons.1 pm
    have hx := (vm x (by simp)).2
    cases n with
    | nil =>
      have := h x.1
      simp [Memory.read] at this
      exact absurd this hx
    | cons y n =>
      obtain ⟨py, qn⟩ := List.pairwise_cons.1 pn
      have hy := (vn y (by simp)).2
      have e : x.1 = y.1 := by
        rcases Nat.lt_trichotomy x.1 y.1 with l | e | l
        · have h1 := h x.1
          rw [Memory.read_below (y :: n) x.1 (by
            intro z hz
            rcases List.mem_cons.1 hz with rfl | hz
            · exact l
            · exact Nat.lt_trans l (py z hz))] at h1
          simp [Memory.read] at h1
          exact absurd h1 hx
        · exact e
        · have h1 := h y.1
          rw [Memory.read_below (x :: m) y.1 (by
            intro z hz
            rcases List.mem_cons.1 hz with rfl | hz
            · exact l
            · exact Nat.lt_trans l (px z hz))] at h1
          simp [Memory.read] at h1
          exact absurd h1.symm hy
      have e2 : x.2 = y.2 := by
        have h1 := h x.1
        simpa [Memory.read, e] using h1
      have exy : x = y := Prod.ext e e2
      subst exy
      refine congrArg (x :: ·) (ih n ?_ qm (fun z hz => vm z (by simp [hz])) qn (fun z hz => vn z (by simp [hz])))
      intro a
      by_cases ha : a = x.1
      · subst ha
        rw [Memory.read_below m x.1 px, Memory.read_below n x.1 py]
      · simpa [Memory.read, ha] using h a

end Sys2Proof.Machine
end

