-- ==== Sys2Proof/Laws/Buffer.lean ====
section
/-! SUPPORT. The Buffer Manager's operations: which descriptor, ticket and list each changes, and what the octets written
into the reply or the notice read as. -/

namespace Sys2Proof.Machine

/-! ### Descriptors and tickets -/

theorem Buffer.desc_modDesc_other (b : Buffer) {d n : Nat} (f : Descriptor → Descriptor) (h : n ≠ d) :
    (b.modDesc d f).desc n = b.desc n := by
  simp [Buffer.desc, Buffer.modDesc, List.getD_eq_getElem?_getD, Ne.symm h]

theorem Buffer.desc_modDesc_same (b : Buffer) (d : Nat) (f : Descriptor → Descriptor) (h : d < b.descs.length) :
    (b.modDesc d f).desc d = f (b.desc d) := by
  simp [Buffer.desc, Buffer.modDesc, List.getD_eq_getElem?_getD, h]

theorem Buffer.ticket_modTicket_other (b : Buffer) {t n : Nat} (f : Ticket → Ticket) (h : n ≠ t) :
    (b.modTicket t f).ticket n = b.ticket n := by
  simp [Buffer.ticket, Buffer.modTicket, List.getD_eq_getElem?_getD, Ne.symm h]

theorem Buffer.ticket_modTicket_same (b : Buffer) (t : Nat) (f : Ticket → Ticket) (h : t < b.tickets.length) :
    (b.modTicket t f).ticket t = f (b.ticket t) := by
  simp [Buffer.ticket, Buffer.modTicket, List.getD_eq_getElem?_getD, h]

@[simp] theorem Buffer.modDesc_kept (b : Buffer) (d : Nat) (f : Descriptor → Descriptor) :
    (b.modDesc d f).mem = b.mem ∧ (b.modDesc d f).freeCells = b.freeCells ∧ (b.modDesc d f).freePart = b.freePart ∧
    (b.modDesc d f).freeDescs = b.freeDescs ∧ (b.modDesc d f).tickets = b.tickets ∧
    (b.modDesc d f).freeTickets = b.freeTickets ∧ (b.modDesc d f).hwCells = b.hwCells ∧
    (b.modDesc d f).hwDescs = b.hwDescs ∧ (b.modDesc d f).lowArmed = b.lowArmed ∧
    (b.modDesc d f).descs.length = b.descs.length := by
  simp [Buffer.modDesc]

@[simp] theorem Buffer.modTicket_kept (b : Buffer) (t : Nat) (f : Ticket → Ticket) :
    (b.modTicket t f).mem = b.mem ∧ (b.modTicket t f).freeCells = b.freeCells ∧
    (b.modTicket t f).freePart = b.freePart ∧ (b.modTicket t f).freeDescs = b.freeDescs ∧
    (b.modTicket t f).descs = b.descs ∧ (b.modTicket t f).freeTickets = b.freeTickets ∧
    (b.modTicket t f).hwCells = b.hwCells ∧ (b.modTicket t f).hwDescs = b.hwDescs ∧
    (b.modTicket t f).lowArmed = b.lowArmed ∧ (b.modTicket t f).tickets.length = b.tickets.length := by
  simp [Buffer.modTicket]

@[simp] theorem Buffer.desc_modTicket (b : Buffer) (t n : Nat) (f : Ticket → Ticket) :
    (b.modTicket t f).desc n = b.desc n := rfl

@[simp] theorem Buffer.ticket_modDesc (b : Buffer) (d n : Nat) (f : Descriptor → Descriptor) :
    (b.modDesc d f).ticket n = b.ticket n := rfl

/-! ### Thresholds and freed descriptors -/

@[simp] theorem Buffer.threshold_kept (b : Buffer) (n : Nat) :
    (b.threshold n).1.mem = b.mem ∧ (b.threshold n).1.freeCells = b.freeCells ∧
    (b.threshold n).1.freePart = b.freePart ∧ (b.threshold n).1.freeDescs = b.freeDescs ∧
    (b.threshold n).1.descs = b.descs ∧ (b.threshold n).1.tickets = b.tickets ∧
    (b.threshold n).1.freeTickets = b.freeTickets ∧ (b.threshold n).1.hwCells = b.hwCells ∧
    (b.threshold n).1.hwDescs = b.hwDescs := by
  unfold Buffer.threshold
  split_ifs <;> simp

@[simp] theorem Buffer.desc_threshold (b : Buffer) (n d : Nat) : (b.threshold n).1.desc d = b.desc d := by
  simp [Buffer.desc]

@[simp] theorem Buffer.freeDesc_kept (b : Buffer) (d : Nat) :
    (b.freeDesc d).1.mem = b.mem ∧ (b.freeDesc d).1.tickets = b.tickets ∧
    (b.freeDesc d).1.freeTickets = b.freeTickets ∧ (b.freeDesc d).1.hwCells = b.hwCells ∧
    (b.freeDesc d).1.hwDescs = b.hwDescs ∧ (b.freeDesc d).1.descs.length = b.descs.length := by
  simp only [Buffer.freeDesc]
  split_ifs <;> simp

/-- Freeing a descriptor changes its state, chain, ticket count and bound slot, and no other descriptor (R40). -/
theorem Buffer.freeDesc_descs (b : Buffer) (d : Nat) :
    (b.freeDesc d).1.descs =
      b.descs.modify d fun v => { v with state := .free, chain := [], tickets := 0, bound := .none } := by
  simp only [Buffer.freeDesc]
  split_ifs <;> simp [Buffer.modDesc]

theorem Buffer.freeDesc_desc_other (b : Buffer) {d n : Nat} (h : n ≠ d) : (b.freeDesc d).1.desc n = b.desc n := by
  simp [Buffer.desc, Buffer.freeDesc_descs, List.getD_eq_getElem?_getD, Ne.symm h]

/-- A general descriptor's cells and the descriptor itself go to the tails of the general lists (R37, R39). -/
theorem Buffer.freeDesc_general (b : Buffer) (d : Nat) (h : d < 126) :
    (b.freeDesc d).1.freeCells = b.freeCells ++ (b.desc d).chain ∧ (b.freeDesc d).1.freeDescs = b.freeDescs ++ [d] ∧
    (b.freeDesc d).1.freePart = b.freePart := by
  simp [Buffer.freeDesc, h]

/-- The reply's and the notice's cells go to the tail of the partition list (R37). -/
theorem Buffer.freeDesc_partition (b : Buffer) (d : Nat) (h : 126 ≤ d) :
    (b.freeDesc d).1.freePart = b.freePart ++ (b.desc d).chain ∧ (b.freeDesc d).1.freeCells = b.freeCells ∧
    (b.freeDesc d).1.freeDescs = b.freeDescs ∧ (b.freeDesc d).1.lowArmed = b.lowArmed ∧ (b.freeDesc d).2 = [] := by
  simp [Buffer.freeDesc, Nat.not_lt.2 h]

/-! ### The reply's and the notice's octets (R132) -/

@[simp] theorem Buffer.claimPart_kept (b : Buffer) (d : Nat) :
    (b.claimPart d).mem = b.mem ∧ (b.claimPart d).freeCells = b.freeCells ∧
    (b.claimPart d).freeDescs = b.freeDescs ∧ (b.claimPart d).tickets = b.tickets ∧
    (b.claimPart d).freeTickets = b.freeTickets ∧ (b.claimPart d).hwCells = b.hwCells ∧
    (b.claimPart d).hwDescs = b.hwDescs ∧ (b.claimPart d).lowArmed = b.lowArmed ∧
    (b.claimPart d).descs.length = b.descs.length := by
  unfold Buffer.claimPart
  split <;> simp [Buffer.appendCell]

theorem Buffer.claimPart_desc_other (b : Buffer) {d n : Nat} (h : n ≠ d) : (b.claimPart d).desc n = b.desc n := by
  unfold Buffer.claimPart
  split
  · rfl
  · rw [Buffer.appendCell, Buffer.desc_modDesc_other _ _ h]; rfl

@[simp] theorem Buffer.putOctet_kept (b : Buffer) (d k : Nat) (o : Byte) :
    (b.putOctet d k o).freeCells = b.freeCells ∧ (b.putOctet d k o).freeDescs = b.freeDescs ∧
    (b.putOctet d k o).tickets = b.tickets ∧ (b.putOctet d k o).freeTickets = b.freeTickets ∧
    (b.putOctet d k o).hwCells = b.hwCells ∧ (b.putOctet d k o).hwDescs = b.hwDescs ∧
    (b.putOctet d k o).lowArmed = b.lowArmed ∧ (b.putOctet d k o).descs.length = b.descs.length := by
  simp only [Buffer.putOctet]
  split <;> split_ifs <;> simp

theorem Buffer.putOctet_desc_other (b : Buffer) {d n : Nat} (k : Nat) (o : Byte) (h : n ≠ d) :
    (b.putOctet d k o).desc n = b.desc n := by
  simp only [Buffer.putOctet]
  split <;> split_ifs <;> first | rfl | exact Buffer.claimPart_desc_other b h

theorem Buffer.putOctet_wf (b : Buffer) (d k : Nat) (o : Byte) (h : b.mem.wf = true) :
    (b.putOctet d k o).mem.wf = true := by
  simp only [Buffer.putOctet]
  split
  · split_ifs <;> exact Memory.wf_write _ _ _ (by simpa using h)
  · split_ifs <;> simpa using h

@[simp] theorem Buffer.putOctets_kept (b : Buffer) (d k : Nat) (os : List Byte) :
    (b.putOctets d k os).freeCells = b.freeCells ∧ (b.putOctets d k os).freeDescs = b.freeDescs ∧
    (b.putOctets d k os).tickets = b.tickets ∧ (b.putOctets d k os).freeTickets = b.freeTickets ∧
    (b.putOctets d k os).hwCells = b.hwCells ∧ (b.putOctets d k os).hwDescs = b.hwDescs ∧
    (b.putOctets d k os).lowArmed = b.lowArmed ∧ (b.putOctets d k os).descs.length = b.descs.length := by
  induction os generalizing b k with
  | nil => simp [Buffer.putOctets]
  | cons o os ih => simp [Buffer.putOctets, ih]

theorem Buffer.putOctets_desc_other (b : Buffer) {d n : Nat} (k : Nat) (os : List Byte) (h : n ≠ d) :
    (b.putOctets d k os).desc n = b.desc n := by
  induction os generalizing b k with
  | nil => rfl
  | cons o os ih => rw [Buffer.putOctets, ih, Buffer.putOctet_desc_other b k o h]

theorem Buffer.putOctets_wf (b : Buffer) (d k : Nat) (os : List Byte) (h : b.mem.wf = true) :
    (b.putOctets d k os).mem.wf = true := by
  induction os generalizing b k with
  | nil => exact h
  | cons o os ih => exact ih _ _ (Buffer.putOctet_wf b d k o h)

theorem Buffer.putOctets_append (b : Buffer) (d k : Nat) (os ps : List Byte) :
    b.putOctets d k (os ++ ps) = (b.putOctets d k os).putOctets d (k + os.length) ps := by
  induction os generalizing b k with
  | nil => rfl
  | cons o os ih => simp [Buffer.putOctets, ih, Nat.add_assoc, Nat.add_comm 1]

/-- The next stored octet of `d` to be written is octet `k`, its cells and the free partition cells are distinct cells of
the buffer, and there is room for `m` octets from `k` on. -/
structure Buffer.Ready (b : Buffer) (d k m : Nat) : Prop where
  wf : b.mem.wf = true
  held : d < b.descs.length
  nodup : ((b.desc d).chain ++ b.freePart).Nodup
  cells : ∀ c ∈ (b.desc d).chain ++ b.freePart, c < 512
  next : k ≤ 64 * (b.desc d).chain.length
  room : k + m ≤ 64 * ((b.desc d).chain.length + b.freePart.length)

theorem Buffer.modify_chain_nil (l : List Descriptor) (d : Nat) :
    l = l.modify d fun v => { v with chain := v.chain ++ [] } := by
  have e : (fun v : Descriptor => { v with chain := v.chain ++ [] }) = id := by
    funext v
    simp
  rw [e, List.modify_id]

theorem Buffer.claimPart_cons (b : Buffer) (d c : Nat) (rest : List Nat) (h : b.freePart = c :: rest) :
    b.claimPart d = { b with freePart := rest, descs := b.descs.modify d fun v => { v with chain := v.chain ++ [c] } } := by
  unfold Buffer.claimPart
  rw [h]
  rfl

/-- What writing octet `k` needs first: its cell is held, or the head partition cell is claimed. -/
theorem Buffer.putOctet_claim (b : Buffer) (d k m : Nat) (o : Byte) (h : b.Ready d k (m + 1)) :
    ∃ (b1 : Buffer) (cells : List Nat) (c : Nat), b.putOctet d k o = { b1 with mem := b1.mem.write (cellAddress c (k % 64)) o } ∧ b1.mem = b.mem ∧
      b.freePart = cells ++ b1.freePart ∧
      b1.descs = b.descs.modify d (fun v => { v with chain := v.chain ++ cells }) ∧
      (b1.desc d).chain = (b.desc d).chain ++ cells ∧ (b1.desc d).chain[k / 64]? = some c ∧
      cells.length = (if k = 64 * (b.desc d).chain.length then 1 else 0) := by
  have hn := h.next
  have hr := h.room
  by_cases hk : k = 64 * (b.desc d).chain.length
  · have hdiv : k / 64 = (b.desc d).chain.length := by omega
    cases hf : b.freePart with
    | nil => rw [hf] at hr; simp at hr; omega
    | cons c rest =>
      have e := Buffer.claimPart_cons b d c rest hf
      have hc : (b.claimPart d).desc d = { b.desc d with chain := (b.desc d).chain ++ [c] } := by
        rw [e]
        exact Buffer.desc_modDesc_same { b with freePart := rest } d _ h.held
      have hget : ((b.claimPart d).desc d).chain[k / Config.cellSize]? = some c := by
        rw [hc, show Config.cellSize = 64 from rfl, hdiv]
        simp
      refine ⟨b.claimPart d, [c], c, ?_, by simp, by rw [e]; rfl, by rw [e], by rw [hc], hget, by simp [hk]⟩
      have hle : (b.desc d).chain.length ≤ k / Config.cellSize := by
        rw [show Config.cellSize = 64 from rfl]; omega
      simp only [Buffer.putOctet, if_pos hle, hget]
  · have hlt : k / 64 < (b.desc d).chain.length := by omega
    obtain ⟨c, hc⟩ : ∃ c, (b.desc d).chain[k / 64]? = some c := ⟨_, List.getElem?_eq_getElem hlt⟩
    refine ⟨b, [], c, ?_, rfl, by simp, Buffer.modify_chain_nil _ _, by simp, hc, by simp [hk]⟩
    · have hle : ¬(b.desc d).chain.length ≤ k / Config.cellSize := by
        rw [show Config.cellSize = 64 from rfl]; omega
      have hc' : (b.desc d).chain[k / Config.cellSize]? = some c := hc
      simp only [Buffer.putOctet, if_neg hle, hc']

/-- One octet written at the next place: it reads back, every stored octet before it and every cell outside the chain
reads as before, and the place after it is the next one. -/
theorem Buffer.putOctet_spec (b : Buffer) (d k m : Nat) (o : Byte) (h : b.Ready d k (m + 1)) :
    (b.putOctet d k o).Ready d (k + 1) m ∧ (b.putOctet d k o).storedOctet d k = o ∧
    (∀ j, j < 64 * (b.desc d).chain.length → j ≠ k →
      (b.putOctet d k o).storedOctet d j = b.storedOctet d j) ∧
    (∃ cells, b.freePart = cells ++ (b.putOctet d k o).freePart ∧
      (b.putOctet d k o).descs = b.descs.modify d (fun v => { v with chain := v.chain ++ cells }) ∧
      ((b.putOctet d k o).desc d).chain = (b.desc d).chain ++ cells ∧
      cells.length = (if k = 64 * (b.desc d).chain.length then 1 else 0)) ∧
    (∀ c j, c < 512 → j < 64 → c ∉ ((b.putOctet d k o).desc d).chain →
      (b.putOctet d k o).mem.read (64 * c + j) = b.mem.read (64 * c + j)) := by
  obtain ⟨b1, cells, c, e, hm, hp, hd, hch, hc, hl⟩ := Buffer.putOctet_claim b d k m o h
  have hchain : ((b.putOctet d k o).desc d).chain = (b.desc d).chain ++ cells := by rw [e]; exact hch
  have hpart : (b.putOctet d k o).freePart = b1.freePart := by rw [e]
  have hmem : (b.putOctet d k o).mem = b.mem.write (64 * c + k % 64) o := by rw [e, ← hm]; rfl
  have hall : (b.desc d).chain ++ b.freePart = ((b.desc d).chain ++ cells) ++ b1.freePart := by
    rw [hp, List.append_assoc]
  have hnod : (((b.desc d).chain ++ cells) ++ b1.freePart).Nodup := hall ▸ h.nodup
  have hcmem : c ∈ (b.desc d).chain ++ cells := by rw [← hch]; exact List.mem_of_getElem? hc
  have hclt : c < 512 := h.cells c (by rw [hall]; exact List.mem_append_left _ hcmem)
  have hread : ∀ a, (b.putOctet d k o).mem.read a = if a = 64 * c + k % 64 then o else b.mem.read a := by
    intro a
    rw [hmem, Memory.read_write _ _ _ _ h.wf]
    have : 64 * c + k % 64 < Config.bufferSize := by
      have : k % 64 < 64 := Nat.mod_lt _ (by decide)
      show _ < 32768
      omega
    simp [this]
  have hget : ∀ j, j < 64 * ((b.desc d).chain ++ cells).length → ∃ x,
      ((b.desc d).chain ++ cells)[j / 64]? = some x := fun j hj => ⟨_, List.getElem?_eq_getElem (by omega)⟩
  have hck : ((b.desc d).chain ++ cells)[k / 64]? = some c := by rw [← hch]; exact hc
  have hklt : k / 64 < ((b.desc d).chain ++ cells).length := by
    rcases List.getElem?_eq_some_iff.1 hck with ⟨hh, -⟩
    exact hh
  have inj : ∀ i x, ((b.desc d).chain ++ cells)[i]? = some x → x = c → i = k / 64 := by
    intro i x hi hx
    subst hx
    obtain ⟨hi1, hi2⟩ := List.getElem?_eq_some_iff.1 hi
    obtain ⟨hk1, hk2⟩ := List.getElem?_eq_some_iff.1 hck
    have nd := (List.nodup_append.1 hnod).1
    exact (List.Nodup.getElem_inj_iff nd).1 (hi2.trans hk2.symm)
  refine ⟨⟨Buffer.putOctet_wf _ _ _ _ h.wf, by simpa using h.held, ?_, ?_, ?_, ?_⟩, ?_, ?_,
    ⟨cells, by rw [hpart]; exact hp, by rw [e]; exact hd, hchain, hl⟩, ?_⟩
  · rw [hchain, hpart]; exact hnod
  · rw [hchain, hpart, ← hall]; exact h.cells
  · rw [hchain]; omega
  · rw [hchain, hpart]
    have h1 := h.room
    have h2 := congrArg List.length hall
    simp only [List.length_append] at h2 ⊢
    omega
  · show (b.putOctet d k o).mem.read (cellAddress (((b.putOctet d k o).desc d).chain.getD (k / 64) 0) (k % 64)) = o
    rw [hchain, List.getD_eq_getElem?_getD, hck, hread]
    simp [cellAddress, Config.cellSize]
  · intro j hj hjk
    have hj' : j / 64 < (b.desc d).chain.length := by omega
    show (b.putOctet d k o).mem.read (cellAddress (((b.putOctet d k o).desc d).chain.getD (j / 64) 0) (j % 64)) = _
    have hx : ((b.desc d).chain ++ cells)[j / 64]? = (b.desc d).chain[j / 64]? := List.getElem?_append_left hj'
    rw [hchain, List.getD_eq_getElem?_getD, hx, hread, if_neg]
    · show _ = b.mem.read (cellAddress ((b.desc d).chain.getD (j / 64) 0) (j % 64))
      rw [List.getD_eq_getElem?_getD]
    · intro hadr
      have hxe : (b.desc d).chain[j / 64]? = some ((b.desc d).chain[j / 64]) := List.getElem?_eq_getElem hj'
      rw [hxe] at hadr
      simp only [cellAddress, Config.cellSize, Option.getD_some] at hadr
      have hdiv : (b.desc d).chain[j / 64] = c := by omega
      have := inj (j / 64) c (by rw [hx, hxe, hdiv]) rfl
      omega
  · intro c' j hc' hj hnot
    rw [hread, if_neg]
    intro hadr
    have : c' = c := by omega
    subst this
    exact hnot (by rw [hchain]; exact hcmem)

/-- Octets written one after another from the next place on: they read back in order, what was stored before them and
every cell outside the chain reads as before, and the cells they need come from the head of the partition list. -/
theorem Buffer.putOctets_spec (b : Buffer) (d k : Nat) (os : List Byte) (m : Nat) (h : b.Ready d k (os.length + m)) :
    (b.putOctets d k os).Ready d (k + os.length) m ∧
    (∀ i, i < os.length → (b.putOctets d k os).storedOctet d (k + i) = os.getD i 0) ∧
    (∀ j, j < k ∨ (k + os.length ≤ j ∧ j < 64 * (b.desc d).chain.length) →
      (b.putOctets d k os).storedOctet d j = b.storedOctet d j) ∧
    (∃ cells, b.freePart = cells ++ (b.putOctets d k os).freePart ∧
      (b.putOctets d k os).descs = b.descs.modify d (fun v => { v with chain := v.chain ++ cells }) ∧
      ((b.putOctets d k os).desc d).chain = (b.desc d).chain ++ cells ∧
      ((k + os.length + 63) / 64 ≤ (b.desc d).chain.length → cells = [])) ∧
    (∀ c j, c < 512 → j < 64 → c ∉ ((b.putOctets d k os).desc d).chain →
      (b.putOctets d k os).mem.read (64 * c + j) = b.mem.read (64 * c + j)) := by
  induction os generalizing b k with
  | nil =>
    refine ⟨by simpa [Buffer.putOctets] using h, by simp, by simp [Buffer.putOctets],
      ⟨[], by simp [Buffer.putOctets], Buffer.modify_chain_nil _ _, by simp [Buffer.putOctets], fun _ => rfl⟩,
      by simp [Buffer.putOctets]⟩
  | cons o os ih =>
    have h' : b.Ready d k ((os.length + m) + 1) := by
      have : (o :: os).length + m = (os.length + m) + 1 := by simp; omega
      rw [this] at h; exact h
    obtain ⟨r1, s1, f1, ⟨cs1, p1, d1, c1, l1⟩, m1⟩ := Buffer.putOctet_spec b d k (os.length + m) o h'
    obtain ⟨r2, s2, f2, ⟨cs2, p2, d2, c2, l2⟩, m2⟩ := ih (b.putOctet d k o) (k + 1) r1
    have hnext : k + 1 ≤ 64 * ((b.putOctet d k o).desc d).chain.length := r1.next
    have hlen : (b.desc d).chain.length ≤ ((b.putOctet d k o).desc d).chain.length := by rw [c1]; simp
    refine ⟨?_, ?_, ?_, ⟨cs1 ++ cs2, ?_, ?_, ?_, ?_⟩, ?_⟩
    · have : k + (o :: os).length = k + 1 + os.length := by simp; omega
      rw [this]; exact r2
    · intro i hi
      cases i with
      | zero =>
        exact (f2 k (.inl (Nat.lt_succ_self k))).trans s1
      | succ i =>
        have := s2 i (by simpa using hi)
        rw [Buffer.putOctets, show k + (i + 1) = k + 1 + i by omega, this]
        simp
    · intro j hj
      simp only [List.length_cons] at hj
      rw [Buffer.putOctets, f2 j (by omega)]
      refine f1 j ?_ (by omega)
      have := h'.next
      omega
    · rw [Buffer.putOctets, p1, p2]; simp
    · rw [Buffer.putOctets, d2, d1, List.modify_modify_eq]
      congr 1
      funext v
      simp
    · rw [Buffer.putOctets, c2, c1]; simp
    · intro hle
      simp only [List.length_cons] at hle
      have hk : ¬k = 64 * (b.desc d).chain.length := by omega
      have e1 : cs1 = [] := by
        rw [if_neg hk] at l1
        exact List.eq_nil_of_length_eq_zero l1
      rw [e1, l2 (by rw [c1]; simp; omega)]
      rfl
    · intro c j hc hj hnot
      rw [Buffer.putOctets] at hnot ⊢
      rw [m2 c j hc hj hnot]
      refine m1 c j hc hj fun hin => hnot ?_
      rw [c2]
      exact List.mem_append_left _ hin

end Sys2Proof.Machine
end

