-- ==== Sys2Proof/Laws/State.lean ====
section
/-! SUPPORT. Small lemmas of the state's records: per-line values, and what each basic update of the part leaves as it
was, so that no later proof unfolds a record update. -/

namespace Sys2Proof.Machine

/-! ### Per-line values -/

@[simp] theorem PerLine.get_set_same {α : Type} (p : PerLine α) (x : Line) (v : α) : (p.set x v).get x = v := by
  cases x <;> rfl

theorem PerLine.get_set_other {α : Type} (p : PerLine α) {x y : Line} (v : α) (h : y ≠ x) :
    (p.set x v).get y = p.get y := by
  cases x <;> cases y <;> first | rfl | exact absurd rfl h

@[simp] theorem PerLine.get_modify_same {α : Type} (p : PerLine α) (x : Line) (f : α → α) :
    (p.modify x f).get x = f (p.get x) := by
  simp [PerLine.modify]

theorem PerLine.get_modify_other {α : Type} (p : PerLine α) {x y : Line} (f : α → α) (h : y ≠ x) :
    (p.modify x f).get y = p.get y := by
  simp [PerLine.modify, PerLine.get_set_other, h]

@[simp] theorem PerLine.modify_modify {α : Type} (p : PerLine α) (x : Line) (f g : α → α) :
    (p.modify x f).modify x g = p.modify x (fun v => g (f v)) := by
  cases x <;> rfl

@[simp] theorem PerLine.get_map {α β : Type} (p : PerLine α) (f : α → β) (x : Line) : (p.map f).get x = f (p.get x) := by
  cases x <;> rfl

@[simp] theorem PerLine.set_set {α : Type} (p : PerLine α) (x : Line) (u v : α) : (p.set x u).set x v = p.set x v := by
  cases x <;> rfl

@[simp] theorem PerLine.set_get {α : Type} (p : PerLine α) (x : Line) : p.set x (p.get x) = p := by
  cases x <;> rfl

theorem PerLine.modify_eq_set {α : Type} (p : PerLine α) (x : Line) (f : α → α) : p.modify x f = p.set x (f (p.get x)) :=
  rfl

theorem PerLine.ext_get {α : Type} {p q : PerLine α} (h : ∀ x, p.get x = q.get x) : p = q := by
  cases p
  cases q
  have ha := h .a
  have hb := h .b
  have hl := h .l
  simp only [PerLine.get] at ha hb hl
  simp [ha, hb, hl]

/-! ### Events on their way to the Notice Emitter -/

@[simp] theorem Emitter.hear_nil (m : Emitter) : m.hear [] = m := by
  simp [Emitter.hear]

@[simp] theorem Emitter.hear_kept (m : Emitter) (es : List Event) :
    (m.hear es).enabled = m.enabled ∧ (m.hear es).station = m.station ∧ (m.hear es).line = m.line ∧
    (m.hear es).interval = m.interval ∧ (m.hear es).pending = m.pending ∧ (m.hear es).timer = m.timer ∧
    (m.hear es).seq = m.seq := by
  unfold Emitter.hear
  split_ifs <;> simp

theorem Emitter.hear_append (m : Emitter) (es fs : List Event) : m.hear (es ++ fs) = (m.hear es).hear fs := by
  by_cases h : m.enabled = true <;> simp [Emitter.hear, h]

/-! ### Basic updates: what they leave -/

@[simp] theorem State.modRx_kept (s : State) (x : Line) (f : Receiver → Receiver) :
    (s.modRx x f).resetHigh = s.resetHigh ∧ (s.modRx x f).divideCount = s.divideCount ∧ (s.modRx x f).owed = s.owed ∧
    (s.modRx x f).self = s.self ∧ (s.modRx x f).config = s.config ∧ (s.modRx x f).tx = s.tx ∧
    (s.modRx x f).buf = s.buf ∧ (s.modRx x f).routes = s.routes ∧ (s.modRx x f).engine = s.engine ∧
    (s.modRx x f).emitter = s.emitter ∧ (s.modRx x f).count = s.count ∧ (s.modRx x f).pending = s.pending ∧
    (s.modRx x f).edges = s.edges ∧
    (s.modRx x f).ticks = s.ticks ∧ (s.modRx x f).gaps = s.gaps ∧
    (s.modRx x f).unflushed = s.unflushed ∧ (s.modRx x f).flushes = s.flushes ∧
    (s.modRx x f).awaits = s.awaits ∧ (s.modRx x f).arrivals = s.arrivals :=
  ⟨rfl, rfl, rfl, rfl, rfl, rfl, rfl, rfl, rfl, rfl, rfl, rfl, rfl, rfl, rfl, rfl, rfl, rfl, rfl⟩

@[simp] theorem State.modRx_rx (s : State) (x : Line) (f : Receiver → Receiver) :
    (s.modRx x f).rx = s.rx.modify x f := rfl

@[simp] theorem State.modTx_kept (s : State) (x : Line) (f : Egress → Egress) :
    (s.modTx x f).resetHigh = s.resetHigh ∧ (s.modTx x f).divideCount = s.divideCount ∧ (s.modTx x f).owed = s.owed ∧
    (s.modTx x f).self = s.self ∧ (s.modTx x f).config = s.config ∧ (s.modTx x f).rx = s.rx ∧
    (s.modTx x f).buf = s.buf ∧ (s.modTx x f).routes = s.routes ∧ (s.modTx x f).engine = s.engine ∧
    (s.modTx x f).emitter = s.emitter ∧ (s.modTx x f).count = s.count ∧ (s.modTx x f).pending = s.pending ∧
    (s.modTx x f).edges = s.edges ∧
    (s.modTx x f).ticks = s.ticks ∧ (s.modTx x f).gaps = s.gaps ∧
    (s.modTx x f).unflushed = s.unflushed ∧ (s.modTx x f).flushes = s.flushes ∧
    (s.modTx x f).awaits = s.awaits ∧ (s.modTx x f).arrivals = s.arrivals :=
  ⟨rfl, rfl, rfl, rfl, rfl, rfl, rfl, rfl, rfl, rfl, rfl, rfl, rfl, rfl, rfl, rfl, rfl, rfl, rfl⟩

@[simp] theorem State.modTx_tx (s : State) (x : Line) (f : Egress → Egress) : (s.modTx x f).tx = s.tx.modify x f := rfl

@[simp] theorem State.modDesc_kept (s : State) (d : Nat) (f : Descriptor → Descriptor) :
    (s.modDesc d f).resetHigh = s.resetHigh ∧ (s.modDesc d f).divideCount = s.divideCount ∧
    (s.modDesc d f).owed = s.owed ∧ (s.modDesc d f).self = s.self ∧ (s.modDesc d f).config = s.config ∧
    (s.modDesc d f).rx = s.rx ∧ (s.modDesc d f).tx = s.tx ∧ (s.modDesc d f).routes = s.routes ∧
    (s.modDesc d f).engine = s.engine ∧ (s.modDesc d f).emitter = s.emitter ∧ (s.modDesc d f).count = s.count ∧
    (s.modDesc d f).pending = s.pending ∧ (s.modDesc d f).edges = s.edges ∧
    (s.modDesc d f).ticks = s.ticks ∧ (s.modDesc d f).gaps = s.gaps ∧
    (s.modDesc d f).unflushed = s.unflushed ∧ (s.modDesc d f).flushes = s.flushes ∧
    (s.modDesc d f).awaits = s.awaits ∧ (s.modDesc d f).arrivals = s.arrivals :=
  ⟨rfl, rfl, rfl, rfl, rfl, rfl, rfl, rfl, rfl, rfl, rfl, rfl, rfl, rfl, rfl, rfl, rfl, rfl, rfl⟩

@[simp] theorem State.modDesc_buf (s : State) (d : Nat) (f : Descriptor → Descriptor) :
    (s.modDesc d f).buf = s.buf.modDesc d f := rfl

@[simp] theorem State.countRx_kept (s : State) (x : Line) (f : RxCounters → RxCounters) :
    (s.countRx x f).resetHigh = s.resetHigh ∧ (s.countRx x f).divideCount = s.divideCount ∧
    (s.countRx x f).owed = s.owed ∧ (s.countRx x f).self = s.self ∧ (s.countRx x f).config = s.config ∧
    (s.countRx x f).rx = s.rx ∧ (s.countRx x f).tx = s.tx ∧ (s.countRx x f).buf = s.buf ∧
    (s.countRx x f).routes = s.routes ∧ (s.countRx x f).engine = s.engine ∧ (s.countRx x f).emitter = s.emitter ∧
    (s.countRx x f).pending = s.pending ∧ (s.countRx x f).edges = s.edges ∧
    (s.countRx x f).ticks = s.ticks ∧ (s.countRx x f).gaps = s.gaps ∧
    (s.countRx x f).unflushed = s.unflushed ∧ (s.countRx x f).flushes = s.flushes ∧
    (s.countRx x f).awaits = s.awaits ∧ (s.countRx x f).arrivals = s.arrivals :=
  ⟨rfl, rfl, rfl, rfl, rfl, rfl, rfl, rfl, rfl, rfl, rfl, rfl, rfl, rfl, rfl, rfl, rfl, rfl, rfl⟩

@[simp] theorem State.countRx_count (s : State) (x : Line) (f : RxCounters → RxCounters) :
    (s.countRx x f).count = { s.count with rx := s.count.rx.modify x f } := rfl

@[simp] theorem State.countTx_kept (s : State) (x : Line) (f : TxCounters → TxCounters) :
    (s.countTx x f).resetHigh = s.resetHigh ∧ (s.countTx x f).divideCount = s.divideCount ∧
    (s.countTx x f).owed = s.owed ∧ (s.countTx x f).self = s.self ∧ (s.countTx x f).config = s.config ∧
    (s.countTx x f).rx = s.rx ∧ (s.countTx x f).tx = s.tx ∧ (s.countTx x f).buf = s.buf ∧
    (s.countTx x f).routes = s.routes ∧ (s.countTx x f).engine = s.engine ∧ (s.countTx x f).emitter = s.emitter ∧
    (s.countTx x f).pending = s.pending ∧ (s.countTx x f).edges = s.edges ∧
    (s.countTx x f).ticks = s.ticks ∧ (s.countTx x f).gaps = s.gaps ∧
    (s.countTx x f).unflushed = s.unflushed ∧ (s.countTx x f).flushes = s.flushes ∧
    (s.countTx x f).awaits = s.awaits ∧ (s.countTx x f).arrivals = s.arrivals :=
  ⟨rfl, rfl, rfl, rfl, rfl, rfl, rfl, rfl, rfl, rfl, rfl, rfl, rfl, rfl, rfl, rfl, rfl, rfl, rfl⟩

@[simp] theorem State.countTx_count (s : State) (x : Line) (f : TxCounters → TxCounters) :
    (s.countTx x f).count = { s.count with tx := s.count.tx.modify x f } := rfl

@[simp] theorem State.countEngine_kept (s : State) (f : EngineCounters → EngineCounters) :
    (s.countEngine f).resetHigh = s.resetHigh ∧ (s.countEngine f).divideCount = s.divideCount ∧
    (s.countEngine f).owed = s.owed ∧ (s.countEngine f).self = s.self ∧ (s.countEngine f).config = s.config ∧
    (s.countEngine f).rx = s.rx ∧ (s.countEngine f).tx = s.tx ∧ (s.countEngine f).buf = s.buf ∧
    (s.countEngine f).routes = s.routes ∧ (s.countEngine f).engine = s.engine ∧ (s.countEngine f).emitter = s.emitter ∧
    (s.countEngine f).pending = s.pending ∧ (s.countEngine f).edges = s.edges ∧
    (s.countEngine f).ticks = s.ticks ∧ (s.countEngine f).gaps = s.gaps ∧
    (s.countEngine f).unflushed = s.unflushed ∧ (s.countEngine f).flushes = s.flushes ∧
    (s.countEngine f).awaits = s.awaits ∧ (s.countEngine f).arrivals = s.arrivals :=
  ⟨rfl, rfl, rfl, rfl, rfl, rfl, rfl, rfl, rfl, rfl, rfl, rfl, rfl, rfl, rfl, rfl, rfl, rfl, rfl⟩

@[simp] theorem State.countEngine_count (s : State) (f : EngineCounters → EngineCounters) :
    (s.countEngine f).count = { s.count with engine := f s.count.engine } := rfl

@[simp] theorem State.raise_kept (s : State) (e : Event) :
    (s.raise e).resetHigh = s.resetHigh ∧ (s.raise e).divideCount = s.divideCount ∧ (s.raise e).owed = s.owed ∧
    (s.raise e).self = s.self ∧ (s.raise e).config = s.config ∧ (s.raise e).rx = s.rx ∧ (s.raise e).tx = s.tx ∧
    (s.raise e).buf = s.buf ∧ (s.raise e).routes = s.routes ∧ (s.raise e).engine = s.engine ∧
    (s.raise e).count = s.count ∧ (s.raise e).pending = s.pending ∧ (s.raise e).edges = s.edges ∧
    (s.raise e).ticks = s.ticks ∧ (s.raise e).gaps = s.gaps ∧
    (s.raise e).unflushed = s.unflushed ∧ (s.raise e).flushes = s.flushes ∧
    (s.raise e).awaits = s.awaits ∧ (s.raise e).arrivals = s.arrivals :=
  ⟨rfl, rfl, rfl, rfl, rfl, rfl, rfl, rfl, rfl, rfl, rfl, rfl, rfl, rfl, rfl, rfl, rfl, rfl, rfl⟩

@[simp] theorem State.raise_emitter (s : State) (e : Event) : (s.raise e).emitter = s.emitter.hear [e] := rfl

@[simp] theorem State.withBuf_kept (s : State) (r : Buffer × List Event) :
    (s.withBuf r).resetHigh = s.resetHigh ∧ (s.withBuf r).divideCount = s.divideCount ∧ (s.withBuf r).owed = s.owed ∧
    (s.withBuf r).self = s.self ∧ (s.withBuf r).config = s.config ∧ (s.withBuf r).rx = s.rx ∧ (s.withBuf r).tx = s.tx ∧
    (s.withBuf r).routes = s.routes ∧ (s.withBuf r).engine = s.engine ∧ (s.withBuf r).count = s.count ∧
    (s.withBuf r).pending = s.pending ∧ (s.withBuf r).edges = s.edges ∧
    (s.withBuf r).ticks = s.ticks ∧ (s.withBuf r).gaps = s.gaps ∧
    (s.withBuf r).unflushed = s.unflushed ∧ (s.withBuf r).flushes = s.flushes ∧
    (s.withBuf r).awaits = s.awaits ∧ (s.withBuf r).arrivals = s.arrivals :=
  ⟨rfl, rfl, rfl, rfl, rfl, rfl, rfl, rfl, rfl, rfl, rfl, rfl, rfl, rfl, rfl, rfl, rfl, rfl⟩

@[simp] theorem State.withBuf_buf (s : State) (r : Buffer × List Event) : (s.withBuf r).buf = r.1 := rfl

@[simp] theorem State.withBuf_emitter (s : State) (r : Buffer × List Event) :
    (s.withBuf r).emitter = s.emitter.hear r.2 := rfl

@[simp] theorem State.withRoutes_kept (s : State) (r : RouteTable × List Event) :
    (s.withRoutes r).resetHigh = s.resetHigh ∧ (s.withRoutes r).divideCount = s.divideCount ∧
    (s.withRoutes r).owed = s.owed ∧ (s.withRoutes r).self = s.self ∧ (s.withRoutes r).config = s.config ∧
    (s.withRoutes r).rx = s.rx ∧ (s.withRoutes r).tx = s.tx ∧ (s.withRoutes r).buf = s.buf ∧
    (s.withRoutes r).engine = s.engine ∧ (s.withRoutes r).count = s.count ∧ (s.withRoutes r).pending = s.pending ∧
    (s.withRoutes r).edges = s.edges ∧
    (s.withRoutes r).ticks = s.ticks ∧ (s.withRoutes r).gaps = s.gaps ∧
    (s.withRoutes r).unflushed = s.unflushed ∧ (s.withRoutes r).flushes = s.flushes ∧
    (s.withRoutes r).awaits = s.awaits ∧ (s.withRoutes r).arrivals = s.arrivals :=
  ⟨rfl, rfl, rfl, rfl, rfl, rfl, rfl, rfl, rfl, rfl, rfl, rfl, rfl, rfl, rfl, rfl, rfl, rfl⟩

@[simp] theorem State.withRoutes_routes (s : State) (r : RouteTable × List Event) : (s.withRoutes r).routes = r.1 := rfl

@[simp] theorem State.withRoutes_emitter (s : State) (r : RouteTable × List Event) :
    (s.withRoutes r).emitter = s.emitter.hear r.2 := rfl

end Sys2Proof.Machine
end

