-- ==== Sys2Proof/Laws/Frames.lean ====
section
/-! SUPPORT. Frames: for each operation, the parts of the state it leaves as they were. Each lemma is a rewriting rule for
every part it names. -/

namespace Sys2Proof.Machine

@[simp] theorem State.releaseBind_kept (s : State) (d : Nat) :
    (s.releaseBind d).resetHigh = s.resetHigh ∧ (s.releaseBind d).divideCount = s.divideCount ∧
    (s.releaseBind d).owed = s.owed ∧ (s.releaseBind d).self = s.self ∧ (s.releaseBind d).config = s.config ∧
    (s.releaseBind d).rx = s.rx ∧ (s.releaseBind d).tx = s.tx ∧ (s.releaseBind d).engine = s.engine ∧
    (s.releaseBind d).count = s.count ∧ (s.releaseBind d).pending = s.pending ∧ (s.releaseBind d).edges = s.edges ∧
    (s.releaseBind d).ticks = s.ticks ∧ (s.releaseBind d).gaps = s.gaps ∧
    (s.releaseBind d).unflushed = s.unflushed ∧ (s.releaseBind d).flushes = s.flushes ∧
    (s.releaseBind d).awaits = s.awaits ∧ (s.releaseBind d).arrivals = s.arrivals := by
  unfold State.releaseBind
  split <;> simp

@[simp] theorem State.freeDesc_kept (s : State) (d : Nat) :
    (s.freeDesc d).resetHigh = s.resetHigh ∧ (s.freeDesc d).divideCount = s.divideCount ∧ (s.freeDesc d).owed = s.owed ∧
    (s.freeDesc d).self = s.self ∧ (s.freeDesc d).config = s.config ∧ (s.freeDesc d).rx = s.rx ∧
    (s.freeDesc d).tx = s.tx ∧ (s.freeDesc d).routes = s.routes ∧ (s.freeDesc d).engine = s.engine ∧
    (s.freeDesc d).count = s.count ∧ (s.freeDesc d).pending = s.pending ∧ (s.freeDesc d).edges = s.edges ∧
    (s.freeDesc d).ticks = s.ticks ∧ (s.freeDesc d).gaps = s.gaps ∧
    (s.freeDesc d).unflushed = s.unflushed ∧ (s.freeDesc d).flushes = s.flushes ∧
    (s.freeDesc d).awaits = s.awaits ∧ (s.freeDesc d).arrivals = s.arrivals := by
  simp [State.freeDesc]

@[simp] theorem State.releaseTicket_kept (s : State) (t : Nat) (cause : Cause) :
    (s.releaseTicket t cause).resetHigh = s.resetHigh ∧ (s.releaseTicket t cause).divideCount = s.divideCount ∧
    (s.releaseTicket t cause).owed = s.owed ∧ (s.releaseTicket t cause).self = s.self ∧
    (s.releaseTicket t cause).config = s.config ∧ (s.releaseTicket t cause).rx = s.rx ∧
    (s.releaseTicket t cause).tx = s.tx ∧ (s.releaseTicket t cause).routes = s.routes ∧
    (s.releaseTicket t cause).engine = s.engine ∧ (s.releaseTicket t cause).pending = s.pending ∧
    (s.releaseTicket t cause).edges = s.edges ∧
    (s.releaseTicket t cause).ticks = s.ticks ∧ (s.releaseTicket t cause).gaps = s.gaps ∧
    (s.releaseTicket t cause).unflushed = s.unflushed ∧ (s.releaseTicket t cause).flushes = s.flushes ∧
    (s.releaseTicket t cause).awaits = s.awaits ∧ (s.releaseTicket t cause).arrivals = s.arrivals := by
  simp only [State.releaseTicket]
  split
  · split <;> simp
  · simp

@[simp] theorem State.enqueueOwn_kept (s : State) (t d : Nat) (x : Line) :
    (s.enqueueOwn t d x).resetHigh = s.resetHigh ∧ (s.enqueueOwn t d x).divideCount = s.divideCount ∧
    (s.enqueueOwn t d x).owed = s.owed ∧ (s.enqueueOwn t d x).self = s.self ∧ (s.enqueueOwn t d x).config = s.config ∧
    (s.enqueueOwn t d x).rx = s.rx ∧ (s.enqueueOwn t d x).routes = s.routes ∧ (s.enqueueOwn t d x).engine = s.engine ∧
    (s.enqueueOwn t d x).emitter = s.emitter ∧ (s.enqueueOwn t d x).count = s.count ∧
    (s.enqueueOwn t d x).pending = s.pending ∧ (s.enqueueOwn t d x).edges = s.edges ∧
    (s.enqueueOwn t d x).ticks = s.ticks ∧ (s.enqueueOwn t d x).gaps = s.gaps ∧
    (s.enqueueOwn t d x).unflushed = s.unflushed ∧ (s.enqueueOwn t d x).flushes = s.flushes ∧
    (s.enqueueOwn t d x).awaits = s.awaits ∧ (s.enqueueOwn t d x).arrivals = s.arrivals := by
  simp [State.enqueueOwn]

@[simp] theorem State.buildNotice_kept (s : State) :
    s.buildNotice.resetHigh = s.resetHigh ∧ s.buildNotice.divideCount = s.divideCount ∧ s.buildNotice.owed = s.owed ∧
    s.buildNotice.self = s.self ∧ s.buildNotice.config = s.config ∧ s.buildNotice.rx = s.rx ∧
    s.buildNotice.routes = s.routes ∧ s.buildNotice.engine = s.engine ∧ s.buildNotice.count = s.count ∧
    s.buildNotice.pending = s.pending ∧ s.buildNotice.edges = s.edges ∧ s.buildNotice.ticks = s.ticks ∧
    s.buildNotice.gaps = s.gaps ∧ s.buildNotice.unflushed = s.unflushed ∧ s.buildNotice.flushes = s.flushes ∧
    s.buildNotice.arrivals = s.arrivals := by
  simp [State.buildNotice]

@[simp] theorem State.buildIfDue_kept (s : State) :
    s.buildIfDue.resetHigh = s.resetHigh ∧ s.buildIfDue.divideCount = s.divideCount ∧ s.buildIfDue.owed = s.owed ∧
    s.buildIfDue.self = s.self ∧ s.buildIfDue.config = s.config ∧ s.buildIfDue.rx = s.rx ∧
    s.buildIfDue.routes = s.routes ∧ s.buildIfDue.engine = s.engine ∧ s.buildIfDue.count = s.count ∧
    s.buildIfDue.pending = s.pending ∧ s.buildIfDue.edges = s.edges ∧ s.buildIfDue.ticks = s.ticks ∧
    s.buildIfDue.gaps = s.gaps ∧ s.buildIfDue.unflushed = s.unflushed ∧ s.buildIfDue.flushes = s.flushes ∧
    s.buildIfDue.arrivals = s.arrivals := by
  unfold State.buildIfDue
  split_ifs <;> simp

@[simp] theorem State.takeEvent_kept (s : State) :
    s.takeEvent.resetHigh = s.resetHigh ∧ s.takeEvent.divideCount = s.divideCount ∧ s.takeEvent.owed = s.owed ∧
    s.takeEvent.self = s.self ∧ s.takeEvent.config = s.config ∧ s.takeEvent.rx = s.rx ∧
    s.takeEvent.routes = s.routes ∧ s.takeEvent.engine = s.engine ∧ s.takeEvent.count = s.count ∧
    s.takeEvent.pending = s.pending ∧ s.takeEvent.edges = s.edges ∧ s.takeEvent.ticks = s.ticks ∧
    s.takeEvent.gaps = s.gaps ∧ s.takeEvent.unflushed = s.unflushed ∧ s.takeEvent.flushes = s.flushes ∧
    s.takeEvent.tx = s.tx ∧ s.takeEvent.buf = s.buf ∧ s.takeEvent.awaits = s.awaits := by
  unfold State.takeEvent
  split <;> simp

@[simp] theorem State.takeEvents_kept (s : State) (n : Nat) :
    (State.takeEvents n s).resetHigh = s.resetHigh ∧ (State.takeEvents n s).divideCount = s.divideCount ∧
    (State.takeEvents n s).owed = s.owed ∧ (State.takeEvents n s).self = s.self ∧
    (State.takeEvents n s).config = s.config ∧ (State.takeEvents n s).rx = s.rx ∧
    (State.takeEvents n s).routes = s.routes ∧ (State.takeEvents n s).engine = s.engine ∧
    (State.takeEvents n s).count = s.count ∧ (State.takeEvents n s).pending = s.pending ∧
    (State.takeEvents n s).edges = s.edges ∧ (State.takeEvents n s).ticks = s.ticks ∧
    (State.takeEvents n s).gaps = s.gaps ∧ (State.takeEvents n s).unflushed = s.unflushed ∧
    (State.takeEvents n s).flushes = s.flushes := by
  induction n generalizing s with
  | zero => simp [State.takeEvents]
  | succ n ih => simp [State.takeEvents, ih]

@[simp] theorem State.drain_kept (s : State) :
    s.drain.resetHigh = s.resetHigh ∧ s.drain.divideCount = s.divideCount ∧ s.drain.owed = s.owed ∧
    s.drain.self = s.self ∧ s.drain.config = s.config ∧ s.drain.rx = s.rx ∧ s.drain.routes = s.routes ∧
    s.drain.engine = s.engine ∧ s.drain.count = s.count ∧ s.drain.pending = s.pending ∧ s.drain.edges = s.edges ∧
    s.drain.ticks = s.ticks ∧ s.drain.gaps = s.gaps ∧ s.drain.unflushed = s.unflushed ∧
    s.drain.flushes = s.flushes := by
  simp [State.drain]

@[simp] theorem State.returnBlock_kept (s : State) (x : Line) :
    (s.returnBlock x).resetHigh = s.resetHigh ∧ (s.returnBlock x).divideCount = s.divideCount ∧
    (s.returnBlock x).owed = s.owed ∧ (s.returnBlock x).self = s.self ∧ (s.returnBlock x).config = s.config ∧
    (s.returnBlock x).rx = s.rx ∧ (s.returnBlock x).tx = s.tx ∧ (s.returnBlock x).engine = s.engine ∧
    (s.returnBlock x).count = s.count ∧ (s.returnBlock x).pending = s.pending ∧ (s.returnBlock x).edges = s.edges ∧
    (s.returnBlock x).ticks = s.ticks ∧ (s.returnBlock x).gaps = s.gaps ∧
    (s.returnBlock x).unflushed = s.unflushed ∧ (s.returnBlock x).flushes = s.flushes ∧
    (s.returnBlock x).awaits = s.awaits ∧ (s.returnBlock x).arrivals = s.arrivals := by
  unfold State.returnBlock
  split <;> simp

@[simp] theorem State.sinkBlock_kept (s : State) (x : Line) :
    (s.sinkBlock x).resetHigh = s.resetHigh ∧ (s.sinkBlock x).divideCount = s.divideCount ∧
    (s.sinkBlock x).owed = s.owed ∧ (s.sinkBlock x).self = s.self ∧ (s.sinkBlock x).config = s.config ∧
    (s.sinkBlock x).tx = s.tx ∧ (s.sinkBlock x).engine = s.engine ∧ (s.sinkBlock x).count = s.count ∧
    (s.sinkBlock x).pending = s.pending ∧ (s.sinkBlock x).edges = s.edges ∧
    (s.sinkBlock x).ticks = s.ticks ∧ (s.sinkBlock x).gaps = s.gaps ∧
    (s.sinkBlock x).unflushed = s.unflushed ∧ (s.sinkBlock x).flushes = s.flushes ∧
    (s.sinkBlock x).awaits = s.awaits ∧ (s.sinkBlock x).arrivals = s.arrivals := by
  simp [State.sinkBlock]

@[simp] theorem State.abandon_kept (s : State) (x : Line) :
    (s.abandon x).resetHigh = s.resetHigh ∧ (s.abandon x).divideCount = s.divideCount ∧ (s.abandon x).owed = s.owed ∧
    (s.abandon x).self = s.self ∧ (s.abandon x).config = s.config ∧ (s.abandon x).tx = s.tx ∧
    (s.abandon x).engine = s.engine ∧ (s.abandon x).count = s.count ∧ (s.abandon x).pending = s.pending ∧
    (s.abandon x).edges = s.edges ∧
    (s.abandon x).ticks = s.ticks ∧ (s.abandon x).gaps = s.gaps ∧
    (s.abandon x).unflushed = s.unflushed ∧ (s.abandon x).flushes = s.flushes ∧
    (s.abandon x).awaits = s.awaits ∧ (s.abandon x).arrivals = s.arrivals := by
  simp [State.abandon]

@[simp] theorem State.lookup_kept (s : State) (x : Line) (d : Nat) :
    (s.lookup x d).resetHigh = s.resetHigh ∧ (s.lookup x d).divideCount = s.divideCount ∧ (s.lookup x d).owed = s.owed ∧
    (s.lookup x d).self = s.self ∧ (s.lookup x d).config = s.config ∧ (s.lookup x d).rx = s.rx ∧
    (s.lookup x d).tx = s.tx ∧ (s.lookup x d).engine = s.engine ∧ (s.lookup x d).emitter = s.emitter ∧
    (s.lookup x d).pending = s.pending ∧ (s.lookup x d).edges = s.edges ∧
    (s.lookup x d).ticks = s.ticks ∧ (s.lookup x d).gaps = s.gaps ∧
    (s.lookup x d).unflushed = s.unflushed ∧ (s.lookup x d).flushes = s.flushes ∧
    (s.lookup x d).awaits = s.awaits ∧ (s.lookup x d).arrivals = s.arrivals := by
  unfold State.lookup
  split
  · split <;> simp
  · simp

@[simp] theorem State.decideBlock_kept (s : State) (x : Line) (d : Nat) :
    (s.decideBlock x d).resetHigh = s.resetHigh ∧ (s.decideBlock x d).divideCount = s.divideCount ∧
    (s.decideBlock x d).owed = s.owed ∧ (s.decideBlock x d).self = s.self ∧ (s.decideBlock x d).config = s.config ∧
    (s.decideBlock x d).tx = s.tx ∧ (s.decideBlock x d).engine = s.engine ∧ (s.decideBlock x d).pending = s.pending ∧
    (s.decideBlock x d).edges = s.edges ∧
    (s.decideBlock x d).ticks = s.ticks ∧ (s.decideBlock x d).gaps = s.gaps ∧
    (s.decideBlock x d).unflushed = s.unflushed ∧ (s.decideBlock x d).flushes = s.flushes ∧
    (s.decideBlock x d).awaits = s.awaits ∧ (s.decideBlock x d).arrivals = s.arrivals := by
  simp only [State.decideBlock]
  split_ifs <;> simp

@[simp] theorem State.report_kept (s : State) (x : Line) (d : Nat) :
    ((s.report x d).2).resetHigh = s.resetHigh ∧ ((s.report x d).2).divideCount = s.divideCount ∧
    ((s.report x d).2).owed = s.owed ∧ ((s.report x d).2).self = s.self ∧ ((s.report x d).2).config = s.config ∧
    ((s.report x d).2).rx = s.rx ∧ ((s.report x d).2).tx = s.tx ∧ ((s.report x d).2).engine = s.engine ∧
    ((s.report x d).2).pending = s.pending ∧ ((s.report x d).2).edges = s.edges ∧
    ((s.report x d).2).ticks = s.ticks ∧ ((s.report x d).2).gaps = s.gaps ∧
    ((s.report x d).2).unflushed = s.unflushed ∧ ((s.report x d).2).flushes = s.flushes ∧
    ((s.report x d).2).awaits = s.awaits ∧ ((s.report x d).2).arrivals = s.arrivals := by
  simp only [State.report]
  split
  · split <;> simp
  · simp
  · simp

@[simp] theorem State.beginPair_kept (s : State) (x : Line) :
    (s.beginPair x).resetHigh = s.resetHigh ∧ (s.beginPair x).divideCount = s.divideCount ∧
    (s.beginPair x).owed = s.owed ∧ (s.beginPair x).self = s.self ∧ (s.beginPair x).config = s.config ∧
    (s.beginPair x).rx = s.rx ∧ (s.beginPair x).buf = s.buf ∧ (s.beginPair x).routes = s.routes ∧
    (s.beginPair x).engine = s.engine ∧ (s.beginPair x).emitter = s.emitter ∧ (s.beginPair x).count = s.count ∧
    (s.beginPair x).pending = s.pending ∧ (s.beginPair x).edges = s.edges ∧
    (s.beginPair x).ticks = s.ticks ∧ (s.beginPair x).gaps = s.gaps ∧
    (s.beginPair x).unflushed = s.unflushed ∧ (s.beginPair x).flushes = s.flushes ∧
    (s.beginPair x).awaits = s.awaits ∧ (s.beginPair x).arrivals = s.arrivals := by
  simp [State.beginPair]

@[simp] theorem State.toFill_kept (s : State) (x : Line) :
    (s.toFill x).resetHigh = s.resetHigh ∧ (s.toFill x).divideCount = s.divideCount ∧ (s.toFill x).owed = s.owed ∧
    (s.toFill x).self = s.self ∧ (s.toFill x).config = s.config ∧ (s.toFill x).rx = s.rx ∧ (s.toFill x).buf = s.buf ∧
    (s.toFill x).routes = s.routes ∧ (s.toFill x).engine = s.engine ∧ (s.toFill x).emitter = s.emitter ∧
    (s.toFill x).count = s.count ∧ (s.toFill x).pending = s.pending ∧ (s.toFill x).edges = s.edges ∧
    (s.toFill x).ticks = s.ticks ∧ (s.toFill x).gaps = s.gaps ∧
    (s.toFill x).unflushed = s.unflushed ∧ (s.toFill x).flushes = s.flushes ∧
    (s.toFill x).awaits = s.awaits ∧ (s.toFill x).arrivals = s.arrivals := by
  simp [State.toFill]

@[simp] theorem State.startSending_kept (s : State) (x : Line) (c : QClass) (t : Nat) :
    (s.startSending x c t).resetHigh = s.resetHigh ∧ (s.startSending x c t).divideCount = s.divideCount ∧
    (s.startSending x c t).owed = s.owed ∧ (s.startSending x c t).self = s.self ∧
    (s.startSending x c t).config = s.config ∧ (s.startSending x c t).rx = s.rx ∧
    (s.startSending x c t).routes = s.routes ∧ (s.startSending x c t).engine = s.engine ∧
    (s.startSending x c t).emitter = s.emitter ∧ (s.startSending x c t).count = s.count ∧
    (s.startSending x c t).pending = s.pending ∧ (s.startSending x c t).edges = s.edges ∧
    (s.startSending x c t).ticks = s.ticks ∧ (s.startSending x c t).gaps = s.gaps ∧
    (s.startSending x c t).unflushed = s.unflushed ∧ (s.startSending x c t).flushes = s.flushes ∧
    (s.startSending x c t).awaits = s.awaits ∧ (s.startSending x c t).arrivals = s.arrivals := by
  simp [State.startSending]

@[simp] theorem State.dropStale_kept (s : State) (x : Line) (t : Nat) :
    (s.dropStale x t).resetHigh = s.resetHigh ∧ (s.dropStale x t).divideCount = s.divideCount ∧
    (s.dropStale x t).owed = s.owed ∧ (s.dropStale x t).self = s.self ∧ (s.dropStale x t).config = s.config ∧
    (s.dropStale x t).rx = s.rx ∧ (s.dropStale x t).tx = s.tx ∧ (s.dropStale x t).routes = s.routes ∧
    (s.dropStale x t).engine = s.engine ∧ (s.dropStale x t).pending = s.pending ∧
    (s.dropStale x t).edges = s.edges ∧
    (s.dropStale x t).ticks = s.ticks ∧ (s.dropStale x t).gaps = s.gaps ∧
    (s.dropStale x t).unflushed = s.unflushed ∧ (s.dropStale x t).flushes = s.flushes ∧
    (s.dropStale x t).awaits = s.awaits ∧ (s.dropStale x t).arrivals = s.arrivals := by
  simp [State.dropStale]

@[simp] theorem State.selectLoop_kept (s : State) (x : Line) (n : Nat) (hold : Bool) (further : List Bool) :
    (State.selectLoop x n hold further s).resetHigh = s.resetHigh ∧
    (State.selectLoop x n hold further s).divideCount = s.divideCount ∧
    (State.selectLoop x n hold further s).owed = s.owed ∧ (State.selectLoop x n hold further s).self = s.self ∧
    (State.selectLoop x n hold further s).config = s.config ∧ (State.selectLoop x n hold further s).rx = s.rx ∧
    (State.selectLoop x n hold further s).routes = s.routes ∧ (State.selectLoop x n hold further s).engine = s.engine ∧
    (State.selectLoop x n hold further s).pending = s.pending ∧
    (State.selectLoop x n hold further s).edges = s.edges ∧
    (State.selectLoop x n hold further s).ticks = s.ticks ∧ (State.selectLoop x n hold further s).gaps = s.gaps ∧
    (State.selectLoop x n hold further s).unflushed = s.unflushed ∧ (State.selectLoop x n hold further s).flushes = s.flushes ∧
    (State.selectLoop x n hold further s).awaits = s.awaits ∧ (State.selectLoop x n hold further s).arrivals = s.arrivals := by
  induction n generalizing hold further s with
  | zero => simp [State.selectLoop]
  | succ n ih =>
    simp only [State.selectLoop]
    split
    · simp
    · split
      · simp
      · split
        · simp [ih]
        · simp

@[simp] theorem State.select_kept (s : State) (x : Line) (hold : Bool) (further : List Bool) :
    (s.select x hold further).resetHigh = s.resetHigh ∧ (s.select x hold further).divideCount = s.divideCount ∧
    (s.select x hold further).owed = s.owed ∧ (s.select x hold further).self = s.self ∧
    (s.select x hold further).config = s.config ∧ (s.select x hold further).rx = s.rx ∧
    (s.select x hold further).routes = s.routes ∧ (s.select x hold further).engine = s.engine ∧
    (s.select x hold further).pending = s.pending ∧ (s.select x hold further).edges = s.edges ∧
    (s.select x hold further).ticks = s.ticks ∧ (s.select x hold further).gaps = s.gaps ∧
    (s.select x hold further).unflushed = s.unflushed ∧ (s.select x hold further).flushes = s.flushes ∧
    (s.select x hold further).awaits = s.awaits ∧ (s.select x hold further).arrivals = s.arrivals := by
  simp [State.select]

@[simp] theorem State.endFillPair_kept (s : State) (x : Line) (hold : Bool) (further : List Bool) :
    (s.endFillPair x hold further).resetHigh = s.resetHigh ∧
    (s.endFillPair x hold further).divideCount = s.divideCount ∧ (s.endFillPair x hold further).owed = s.owed ∧
    (s.endFillPair x hold further).self = s.self ∧ (s.endFillPair x hold further).config = s.config ∧
    (s.endFillPair x hold further).rx = s.rx ∧ (s.endFillPair x hold further).routes = s.routes ∧
    (s.endFillPair x hold further).engine = s.engine ∧ (s.endFillPair x hold further).pending = s.pending ∧
    (s.endFillPair x hold further).edges = s.edges ∧
    (s.endFillPair x hold further).ticks = s.ticks ∧ (s.endFillPair x hold further).gaps = s.gaps ∧
    (s.endFillPair x hold further).unflushed = s.unflushed ∧ (s.endFillPair x hold further).flushes = s.flushes ∧
    (s.endFillPair x hold further).awaits = s.awaits ∧ (s.endFillPair x hold further).arrivals = s.arrivals := by
  unfold State.endFillPair
  split <;> simp

@[simp] theorem State.endGapPair_kept (s : State) (x : Line) (hold : Bool) (further : List Bool) :
    (s.endGapPair x hold further).resetHigh = s.resetHigh ∧ (s.endGapPair x hold further).divideCount = s.divideCount ∧
    (s.endGapPair x hold further).owed = s.owed ∧ (s.endGapPair x hold further).self = s.self ∧
    (s.endGapPair x hold further).config = s.config ∧ (s.endGapPair x hold further).rx = s.rx ∧
    (s.endGapPair x hold further).routes = s.routes ∧ (s.endGapPair x hold further).engine = s.engine ∧
    (s.endGapPair x hold further).pending = s.pending ∧ (s.endGapPair x hold further).edges = s.edges ∧
    (s.endGapPair x hold further).ticks = s.ticks ∧ (s.endGapPair x hold further).gaps = s.gaps ∧
    (s.endGapPair x hold further).unflushed = s.unflushed ∧ (s.endGapPair x hold further).flushes = s.flushes ∧
    (s.endGapPair x hold further).awaits = s.awaits ∧ (s.endGapPair x hold further).arrivals = s.arrivals := by
  unfold State.endGapPair
  split
  · dsimp only
    split_ifs <;> simp
  · simp
  · simp

@[simp] theorem State.endBlockSent_kept (s : State) (x : Line) :
    (s.endBlockSent x).resetHigh = s.resetHigh ∧ (s.endBlockSent x).divideCount = s.divideCount ∧
    (s.endBlockSent x).owed = s.owed ∧ (s.endBlockSent x).self = s.self ∧ (s.endBlockSent x).config = s.config ∧
    (s.endBlockSent x).rx = s.rx ∧ (s.endBlockSent x).routes = s.routes ∧ (s.endBlockSent x).engine = s.engine ∧
    (s.endBlockSent x).pending = s.pending ∧ (s.endBlockSent x).edges = s.edges ∧
    (s.endBlockSent x).ticks = s.ticks ∧ (s.endBlockSent x).gaps = s.gaps ∧
    (s.endBlockSent x).unflushed = s.unflushed ∧ (s.endBlockSent x).flushes = s.flushes ∧
    (s.endBlockSent x).awaits = s.awaits ∧ (s.endBlockSent x).arrivals = s.arrivals := by
  unfold State.endBlockSent
  split <;> simp

@[simp] theorem State.endUnit_kept (s : State) (x : Line) (hold : Bool) (further : List Bool) :
    (s.endUnit x hold further).resetHigh = s.resetHigh ∧ (s.endUnit x hold further).divideCount = s.divideCount ∧
    (s.endUnit x hold further).owed = s.owed ∧ (s.endUnit x hold further).self = s.self ∧
    (s.endUnit x hold further).config = s.config ∧ (s.endUnit x hold further).rx = s.rx ∧
    (s.endUnit x hold further).routes = s.routes ∧ (s.endUnit x hold further).engine = s.engine ∧
    (s.endUnit x hold further).pending = s.pending ∧ (s.endUnit x hold further).edges = s.edges ∧
    (s.endUnit x hold further).ticks = s.ticks ∧ (s.endUnit x hold further).gaps = s.gaps ∧
    (s.endUnit x hold further).unflushed = s.unflushed ∧ (s.endUnit x hold further).flushes = s.flushes ∧
    (s.endUnit x hold further).awaits = s.awaits ∧ (s.endUnit x hold further).arrivals = s.arrivals := by
  unfold State.endUnit
  split <;> simp

@[simp] theorem State.tcEdge_kept (s : State) (x : Line) (hold : Bool) (further : List Bool) :
    (s.tcEdge x hold further).resetHigh = s.resetHigh ∧ (s.tcEdge x hold further).divideCount = s.divideCount ∧
    (s.tcEdge x hold further).owed = s.owed ∧ (s.tcEdge x hold further).self = s.self ∧
    (s.tcEdge x hold further).config = s.config ∧ (s.tcEdge x hold further).rx = s.rx ∧
    (s.tcEdge x hold further).routes = s.routes ∧ (s.tcEdge x hold further).engine = s.engine ∧
    (s.tcEdge x hold further).pending = s.pending ∧ (s.tcEdge x hold further).edges = s.edges ∧
    (s.tcEdge x hold further).ticks = s.ticks ∧ (s.tcEdge x hold further).gaps = s.gaps ∧
    (s.tcEdge x hold further).unflushed = s.unflushed ∧ (s.tcEdge x hold further).flushes = s.flushes ∧
    (s.tcEdge x hold further).awaits = s.awaits ∧ (s.tcEdge x hold further).arrivals = s.arrivals := by
  unfold State.tcEdge
  split_ifs <;> simp

@[simp] theorem State.writeResult_kept (s : State) (n : Nat) (os : List Byte) :
    (s.writeResult n os).resetHigh = s.resetHigh ∧ (s.writeResult n os).divideCount = s.divideCount ∧
    (s.writeResult n os).owed = s.owed ∧ (s.writeResult n os).self = s.self ∧ (s.writeResult n os).config = s.config ∧
    (s.writeResult n os).rx = s.rx ∧ (s.writeResult n os).tx = s.tx ∧ (s.writeResult n os).routes = s.routes ∧
    (s.writeResult n os).engine = s.engine ∧ (s.writeResult n os).emitter = s.emitter ∧
    (s.writeResult n os).count = s.count ∧ (s.writeResult n os).pending = s.pending ∧
    (s.writeResult n os).edges = s.edges ∧
    (s.writeResult n os).ticks = s.ticks ∧ (s.writeResult n os).gaps = s.gaps ∧
    (s.writeResult n os).unflushed = s.unflushed ∧ (s.writeResult n os).flushes = s.flushes ∧
    (s.writeResult n os).awaits = s.awaits ∧ (s.writeResult n os).arrivals = s.arrivals := by
  simp [State.writeResult]

@[simp] theorem State.takeBeforeReply_kept (s : State) (e : GapEvent) :
    (s.takeBeforeReply e).resetHigh = s.resetHigh ∧ (s.takeBeforeReply e).divideCount = s.divideCount ∧
    (s.takeBeforeReply e).owed = s.owed ∧ (s.takeBeforeReply e).self = s.self ∧ (s.takeBeforeReply e).config = s.config ∧
    (s.takeBeforeReply e).rx = s.rx ∧ (s.takeBeforeReply e).routes = s.routes ∧ (s.takeBeforeReply e).engine = s.engine ∧
    (s.takeBeforeReply e).pending = s.pending ∧ (s.takeBeforeReply e).edges = s.edges ∧ (s.takeBeforeReply e).ticks = s.ticks ∧
    (s.takeBeforeReply e).unflushed = s.unflushed ∧ (s.takeBeforeReply e).flushes = s.flushes ∧
    (s.takeBeforeReply e).gaps = s.gaps := by
  cases e <;> simp [State.takeBeforeReply]

@[simp] theorem State.takeBeforeReplies_kept (s : State) (es : List GapEvent) :
    (es.foldl State.takeBeforeReply s).resetHigh = s.resetHigh ∧
    (es.foldl State.takeBeforeReply s).divideCount = s.divideCount ∧ (es.foldl State.takeBeforeReply s).owed = s.owed ∧
    (es.foldl State.takeBeforeReply s).self = s.self ∧ (es.foldl State.takeBeforeReply s).config = s.config ∧
    (es.foldl State.takeBeforeReply s).rx = s.rx ∧ (es.foldl State.takeBeforeReply s).routes = s.routes ∧
    (es.foldl State.takeBeforeReply s).engine = s.engine ∧ (es.foldl State.takeBeforeReply s).pending = s.pending ∧
    (es.foldl State.takeBeforeReply s).edges = s.edges ∧ (es.foldl State.takeBeforeReply s).ticks = s.ticks ∧
    (es.foldl State.takeBeforeReply s).unflushed = s.unflushed ∧ (es.foldl State.takeBeforeReply s).flushes = s.flushes ∧
    (es.foldl State.takeBeforeReply s).gaps = s.gaps := by
  induction es generalizing s with
  | nil => simp
  | cons e es ih => simp only [List.foldl_cons, ih]; simp

/-- The gap of a session's end takes its front from the list of gaps. -/
@[simp] theorem State.passReplyGap_kept (s : State) :
    s.passReplyGap.resetHigh = s.resetHigh ∧ s.passReplyGap.divideCount = s.divideCount ∧ s.passReplyGap.owed = s.owed ∧
    s.passReplyGap.self = s.self ∧ s.passReplyGap.config = s.config ∧ s.passReplyGap.rx = s.rx ∧ s.passReplyGap.routes = s.routes ∧
    s.passReplyGap.engine = s.engine ∧ s.passReplyGap.pending = s.pending ∧ s.passReplyGap.edges = s.edges ∧
    s.passReplyGap.ticks = s.ticks ∧ s.passReplyGap.unflushed = s.unflushed ∧ s.passReplyGap.flushes = s.flushes ∧
    s.passReplyGap.gaps = s.gaps.tail := by
  simp [State.passReplyGap]

@[simp] theorem State.endSession_kept (s : State) (ss : Session) :
    (s.endSession ss).resetHigh = s.resetHigh ∧ (s.endSession ss).divideCount = s.divideCount ∧
    (s.endSession ss).owed = s.owed ∧ (s.endSession ss).self = s.self ∧ (s.endSession ss).config = s.config ∧
    (s.endSession ss).rx = s.rx ∧ (s.endSession ss).routes = s.routes ∧ (s.endSession ss).pending = s.pending ∧
    (s.endSession ss).edges = s.edges ∧ (s.endSession ss).ticks = s.ticks ∧
    (s.endSession ss).unflushed = s.unflushed ∧ (s.endSession ss).flushes = s.flushes ∧
    (s.endSession ss).gaps = s.gaps.tail ∧ (s.endSession ss).engine.queue = s.engine.queue := by
  simp [State.endSession]

@[simp] theorem State.endIfOver_kept (s : State) :
    s.endIfOver.resetHigh = s.resetHigh ∧ s.endIfOver.divideCount = s.divideCount ∧
    s.endIfOver.owed = s.owed ∧ s.endIfOver.self = s.self ∧ s.endIfOver.config = s.config ∧
    s.endIfOver.rx = s.rx ∧ s.endIfOver.routes = s.routes ∧ s.endIfOver.pending = s.pending ∧
    s.endIfOver.edges = s.edges ∧ s.endIfOver.ticks = s.ticks ∧
    s.endIfOver.unflushed = s.unflushed ∧ s.endIfOver.flushes = s.flushes ∧
    s.endIfOver.engine.queue = s.engine.queue := by
  unfold State.endIfOver
  split
  · split_ifs <;> simp
  · simp

@[simp] theorem State.takeGapEvent_kept (s : State) (e : GapEvent) :
    (s.takeGapEvent e).resetHigh = s.resetHigh ∧ (s.takeGapEvent e).divideCount = s.divideCount ∧
    (s.takeGapEvent e).owed = s.owed ∧ (s.takeGapEvent e).self = s.self ∧ (s.takeGapEvent e).config = s.config ∧
    (s.takeGapEvent e).rx = s.rx ∧ (s.takeGapEvent e).routes = s.routes ∧ (s.takeGapEvent e).engine.queue = s.engine.queue ∧
    (s.takeGapEvent e).pending = s.pending ∧ (s.takeGapEvent e).edges = s.edges ∧ (s.takeGapEvent e).ticks = s.ticks ∧
    (s.takeGapEvent e).unflushed = s.unflushed ∧ (s.takeGapEvent e).flushes = s.flushes := by
  cases e <;> simp [State.takeGapEvent]

@[simp] theorem State.takeGapEvents_kept (s : State) (es : List GapEvent) :
    (es.foldl State.takeGapEvent s).resetHigh = s.resetHigh ∧
    (es.foldl State.takeGapEvent s).divideCount = s.divideCount ∧ (es.foldl State.takeGapEvent s).owed = s.owed ∧
    (es.foldl State.takeGapEvent s).self = s.self ∧ (es.foldl State.takeGapEvent s).config = s.config ∧
    (es.foldl State.takeGapEvent s).rx = s.rx ∧ (es.foldl State.takeGapEvent s).routes = s.routes ∧
    (es.foldl State.takeGapEvent s).engine.queue = s.engine.queue ∧ (es.foldl State.takeGapEvent s).pending = s.pending ∧
    (es.foldl State.takeGapEvent s).edges = s.edges ∧ (es.foldl State.takeGapEvent s).ticks = s.ticks ∧
    (es.foldl State.takeGapEvent s).unflushed = s.unflushed ∧ (es.foldl State.takeGapEvent s).flushes = s.flushes := by
  induction es generalizing s with
  | nil => simp
  | cons e es ih => simp only [List.foldl_cons, ih]; simp

@[simp] theorem State.passGap_kept (s : State) :
    s.passGap.resetHigh = s.resetHigh ∧ s.passGap.divideCount = s.divideCount ∧ s.passGap.owed = s.owed ∧
    s.passGap.self = s.self ∧ s.passGap.config = s.config ∧ s.passGap.rx = s.rx ∧ s.passGap.routes = s.routes ∧
    s.passGap.engine.queue = s.engine.queue ∧ s.passGap.pending = s.pending ∧ s.passGap.edges = s.edges ∧
    s.passGap.ticks = s.ticks ∧ s.passGap.unflushed = s.unflushed ∧ s.passGap.flushes = s.flushes := by
  simp [State.passGap]

@[simp] theorem State.admitCopy_kept (s : State) (d : Nat) (x : Line) :
    (s.admitCopy d x).resetHigh = s.resetHigh ∧ (s.admitCopy d x).divideCount = s.divideCount ∧
    (s.admitCopy d x).owed = s.owed ∧ (s.admitCopy d x).self = s.self ∧ (s.admitCopy d x).config = s.config ∧
    (s.admitCopy d x).rx = s.rx ∧ (s.admitCopy d x).routes = s.routes ∧ (s.admitCopy d x).engine = s.engine ∧
    (s.admitCopy d x).emitter = s.emitter ∧ (s.admitCopy d x).pending = s.pending ∧
    (s.admitCopy d x).edges = s.edges ∧
    (s.admitCopy d x).ticks = s.ticks ∧ (s.admitCopy d x).gaps = s.gaps ∧
    (s.admitCopy d x).unflushed = s.unflushed ∧ (s.admitCopy d x).flushes = s.flushes ∧
    (s.admitCopy d x).awaits = s.awaits ∧ (s.admitCopy d x).arrivals = s.arrivals := by
  unfold State.admitCopy
  split
  · simp
  · dsimp only
    split_ifs <;> simp

@[simp] theorem State.offer_kept (s : State) (x : Line) (d : Nat) :
    (s.offer x d).resetHigh = s.resetHigh ∧ (s.offer x d).divideCount = s.divideCount ∧ (s.offer x d).owed = s.owed ∧
    (s.offer x d).self = s.self ∧ (s.offer x d).config = s.config ∧ (s.offer x d).rx = s.rx ∧ (s.offer x d).tx = s.tx ∧
    (s.offer x d).routes = s.routes ∧ (s.offer x d).pending = s.pending ∧ (s.offer x d).edges = s.edges ∧
    (s.offer x d).ticks = s.ticks ∧ (s.offer x d).gaps = s.gaps ∧
    (s.offer x d).unflushed = s.unflushed ∧ (s.offer x d).flushes = s.flushes ∧
    (s.offer x d).awaits = s.awaits ∧ (s.offer x d).arrivals = s.arrivals := by
  unfold State.offer
  split_ifs <;> simp

@[simp] theorem State.huntCompare_kept (s : State) (x : Line) :
    (s.huntCompare x).resetHigh = s.resetHigh ∧ (s.huntCompare x).divideCount = s.divideCount ∧
    (s.huntCompare x).owed = s.owed ∧ (s.huntCompare x).self = s.self ∧ (s.huntCompare x).config = s.config ∧
    (s.huntCompare x).tx = s.tx ∧ (s.huntCompare x).buf = s.buf ∧ (s.huntCompare x).routes = s.routes ∧
    (s.huntCompare x).engine = s.engine ∧ (s.huntCompare x).emitter = s.emitter ∧ (s.huntCompare x).count = s.count ∧
    (s.huntCompare x).pending = s.pending ∧ (s.huntCompare x).edges = s.edges ∧
    (s.huntCompare x).ticks = s.ticks ∧ (s.huntCompare x).gaps = s.gaps ∧
    (s.huntCompare x).unflushed = s.unflushed ∧ (s.huntCompare x).flushes = s.flushes ∧
    (s.huntCompare x).awaits = s.awaits ∧ (s.huntCompare x).arrivals = s.arrivals := by
  simp only [State.huntCompare]
  split_ifs <;> simp

@[simp] theorem State.toHunt_kept (s : State) (x : Line) :
    (s.toHunt x).resetHigh = s.resetHigh ∧ (s.toHunt x).divideCount = s.divideCount ∧ (s.toHunt x).owed = s.owed ∧
    (s.toHunt x).self = s.self ∧ (s.toHunt x).config = s.config ∧ (s.toHunt x).tx = s.tx ∧
    (s.toHunt x).engine = s.engine ∧ (s.toHunt x).count = s.count ∧ (s.toHunt x).pending = s.pending ∧
    (s.toHunt x).edges = s.edges ∧
    (s.toHunt x).ticks = s.ticks ∧ (s.toHunt x).gaps = s.gaps ∧
    (s.toHunt x).unflushed = s.unflushed ∧ (s.toHunt x).flushes = s.flushes ∧
    (s.toHunt x).awaits = s.awaits ∧ (s.toHunt x).arrivals = s.arrivals := by
  simp [State.toHunt]

@[simp] theorem State.loseSync_kept (s : State) (x : Line) :
    (s.loseSync x).resetHigh = s.resetHigh ∧ (s.loseSync x).divideCount = s.divideCount ∧ (s.loseSync x).owed = s.owed ∧
    (s.loseSync x).self = s.self ∧ (s.loseSync x).config = s.config ∧ (s.loseSync x).tx = s.tx ∧
    (s.loseSync x).engine = s.engine ∧ (s.loseSync x).pending = s.pending ∧ (s.loseSync x).edges = s.edges ∧
    (s.loseSync x).ticks = s.ticks ∧ (s.loseSync x).gaps = s.gaps ∧
    (s.loseSync x).unflushed = s.unflushed ∧ (s.loseSync x).flushes = s.flushes ∧
    (s.loseSync x).awaits = s.awaits ∧ (s.loseSync x).arrivals = s.arrivals := by
  simp [State.loseSync]

@[simp] theorem State.restart_kept (s : State) (x : Line) :
    (s.restart x).resetHigh = s.resetHigh ∧ (s.restart x).divideCount = s.divideCount ∧ (s.restart x).owed = s.owed ∧
    (s.restart x).self = s.self ∧ (s.restart x).config = s.config ∧ (s.restart x).tx = s.tx ∧
    (s.restart x).engine = s.engine ∧ (s.restart x).count = s.count ∧ (s.restart x).pending = s.pending ∧
    (s.restart x).edges = s.edges ∧
    (s.restart x).ticks = s.ticks ∧ (s.restart x).gaps = s.gaps ∧
    (s.restart x).unflushed = s.unflushed ∧ (s.restart x).flushes = s.flushes ∧
    (s.restart x).awaits = s.awaits ∧ (s.restart x).arrivals = s.arrivals := by
  unfold State.restart
  split_ifs <;> simp

@[simp] theorem State.expire_kept (s : State) (x : Line) :
    (s.expire x).resetHigh = s.resetHigh ∧ (s.expire x).divideCount = s.divideCount ∧ (s.expire x).owed = s.owed ∧
    (s.expire x).self = s.self ∧ (s.expire x).config = s.config ∧ (s.expire x).tx = s.tx ∧
    (s.expire x).engine = s.engine ∧ (s.expire x).pending = s.pending ∧ (s.expire x).edges = s.edges ∧
    (s.expire x).ticks = s.ticks ∧ (s.expire x).gaps = s.gaps ∧
    (s.expire x).unflushed = s.unflushed ∧ (s.expire x).flushes = s.flushes ∧
    (s.expire x).awaits = s.awaits ∧ (s.expire x).arrivals = s.arrivals := by
  unfold State.expire
  split_ifs <;> simp

@[simp] theorem State.takeConfirm_kept (s : State) (x : Line) (o : Byte) :
    (s.takeConfirm x o).resetHigh = s.resetHigh ∧ (s.takeConfirm x o).divideCount = s.divideCount ∧
    (s.takeConfirm x o).owed = s.owed ∧ (s.takeConfirm x o).self = s.self ∧ (s.takeConfirm x o).config = s.config ∧
    (s.takeConfirm x o).tx = s.tx ∧ (s.takeConfirm x o).buf = s.buf ∧ (s.takeConfirm x o).routes = s.routes ∧
    (s.takeConfirm x o).engine = s.engine ∧ (s.takeConfirm x o).pending = s.pending ∧
    (s.takeConfirm x o).edges = s.edges ∧
    (s.takeConfirm x o).ticks = s.ticks ∧ (s.takeConfirm x o).gaps = s.gaps ∧
    (s.takeConfirm x o).unflushed = s.unflushed ∧ (s.takeConfirm x o).flushes = s.flushes ∧
    (s.takeConfirm x o).awaits = s.awaits ∧ (s.takeConfirm x o).arrivals = s.arrivals := by
  unfold State.takeConfirm
  split_ifs <;> simp

@[simp] theorem State.beginBlock_kept (s : State) (x : Line) :
    (s.beginBlock x).resetHigh = s.resetHigh ∧ (s.beginBlock x).divideCount = s.divideCount ∧
    (s.beginBlock x).owed = s.owed ∧ (s.beginBlock x).self = s.self ∧ (s.beginBlock x).config = s.config ∧
    (s.beginBlock x).tx = s.tx ∧ (s.beginBlock x).routes = s.routes ∧ (s.beginBlock x).engine = s.engine ∧
    (s.beginBlock x).emitter = s.emitter ∧ (s.beginBlock x).pending = s.pending ∧ (s.beginBlock x).edges = s.edges ∧
    (s.beginBlock x).ticks = s.ticks ∧ (s.beginBlock x).gaps = s.gaps ∧
    (s.beginBlock x).unflushed = s.unflushed ∧ (s.beginBlock x).flushes = s.flushes ∧
    (s.beginBlock x).awaits = s.awaits ∧ (s.beginBlock x).arrivals = s.arrivals := by
  simp only [State.beginBlock]
  split <;> simp

@[simp] theorem State.writeCurrent_kept (s : State) (x : Line) (c : CellFill) (o : Byte) :
    (s.writeCurrent x c o).resetHigh = s.resetHigh ∧ (s.writeCurrent x c o).divideCount = s.divideCount ∧
    (s.writeCurrent x c o).owed = s.owed ∧ (s.writeCurrent x c o).self = s.self ∧
    (s.writeCurrent x c o).config = s.config ∧ (s.writeCurrent x c o).tx = s.tx ∧
    (s.writeCurrent x c o).routes = s.routes ∧ (s.writeCurrent x c o).engine = s.engine ∧
    (s.writeCurrent x c o).emitter = s.emitter ∧ (s.writeCurrent x c o).count = s.count ∧
    (s.writeCurrent x c o).pending = s.pending ∧ (s.writeCurrent x c o).edges = s.edges ∧
    (s.writeCurrent x c o).ticks = s.ticks ∧ (s.writeCurrent x c o).gaps = s.gaps ∧
    (s.writeCurrent x c o).unflushed = s.unflushed ∧ (s.writeCurrent x c o).flushes = s.flushes ∧
    (s.writeCurrent x c o).awaits = s.awaits ∧ (s.writeCurrent x c o).arrivals = s.arrivals := by
  simp [State.writeCurrent]

@[simp] theorem State.storeInNew_kept (s : State) (x : Line) (d : Nat) (o : Byte) :
    (s.storeInNew x d o).resetHigh = s.resetHigh ∧ (s.storeInNew x d o).divideCount = s.divideCount ∧
    (s.storeInNew x d o).owed = s.owed ∧ (s.storeInNew x d o).self = s.self ∧ (s.storeInNew x d o).config = s.config ∧
    (s.storeInNew x d o).tx = s.tx ∧ (s.storeInNew x d o).engine = s.engine ∧ (s.storeInNew x d o).pending = s.pending ∧
    (s.storeInNew x d o).edges = s.edges ∧
    (s.storeInNew x d o).ticks = s.ticks ∧ (s.storeInNew x d o).gaps = s.gaps ∧
    (s.storeInNew x d o).unflushed = s.unflushed ∧ (s.storeInNew x d o).flushes = s.flushes ∧
    (s.storeInNew x d o).awaits = s.awaits ∧ (s.storeInNew x d o).arrivals = s.arrivals := by
  unfold State.storeInNew
  split <;> simp

@[simp] theorem State.storeOctet_kept (s : State) (x : Line) (o : Byte) :
    (s.storeOctet x o).resetHigh = s.resetHigh ∧ (s.storeOctet x o).divideCount = s.divideCount ∧
    (s.storeOctet x o).owed = s.owed ∧ (s.storeOctet x o).self = s.self ∧ (s.storeOctet x o).config = s.config ∧
    (s.storeOctet x o).tx = s.tx ∧ (s.storeOctet x o).engine = s.engine ∧ (s.storeOctet x o).pending = s.pending ∧
    (s.storeOctet x o).edges = s.edges ∧
    (s.storeOctet x o).ticks = s.ticks ∧ (s.storeOctet x o).gaps = s.gaps ∧
    (s.storeOctet x o).unflushed = s.unflushed ∧ (s.storeOctet x o).flushes = s.flushes ∧
    (s.storeOctet x o).awaits = s.awaits ∧ (s.storeOctet x o).arrivals = s.arrivals := by
  unfold State.storeOctet
  split
  · simp
  · split_ifs <;> simp
  · simp

@[simp] theorem State.placeHeader_kept (s : State) (x : Line) (o : Byte) :
    (s.placeHeader x o).resetHigh = s.resetHigh ∧ (s.placeHeader x o).divideCount = s.divideCount ∧
    (s.placeHeader x o).owed = s.owed ∧ (s.placeHeader x o).self = s.self ∧ (s.placeHeader x o).config = s.config ∧
    (s.placeHeader x o).tx = s.tx ∧ (s.placeHeader x o).engine = s.engine ∧ (s.placeHeader x o).pending = s.pending ∧
    (s.placeHeader x o).edges = s.edges ∧
    (s.placeHeader x o).ticks = s.ticks ∧ (s.placeHeader x o).gaps = s.gaps ∧
    (s.placeHeader x o).unflushed = s.unflushed ∧ (s.placeHeader x o).flushes = s.flushes ∧
    (s.placeHeader x o).awaits = s.awaits ∧ (s.placeHeader x o).arrivals = s.arrivals := by
  simp [State.placeHeader]

@[simp] theorem State.completeHeader_kept (s : State) (x : Line) (o : Byte) :
    (s.completeHeader x o).resetHigh = s.resetHigh ∧ (s.completeHeader x o).divideCount = s.divideCount ∧
    (s.completeHeader x o).owed = s.owed ∧ (s.completeHeader x o).self = s.self ∧
    (s.completeHeader x o).config = s.config ∧ (s.completeHeader x o).tx = s.tx ∧
    (s.completeHeader x o).engine = s.engine ∧ (s.completeHeader x o).pending = s.pending ∧
    (s.completeHeader x o).edges = s.edges ∧
    (s.completeHeader x o).ticks = s.ticks ∧ (s.completeHeader x o).gaps = s.gaps ∧
    (s.completeHeader x o).unflushed = s.unflushed ∧ (s.completeHeader x o).flushes = s.flushes ∧
    (s.completeHeader x o).awaits = s.awaits ∧ (s.completeHeader x o).arrivals = s.arrivals := by
  simp only [State.completeHeader]
  split
  · simp
  · split <;> simp

@[simp] theorem State.takeText_kept (s : State) (x : Line) (o : Byte) :
    (s.takeText x o).resetHigh = s.resetHigh ∧ (s.takeText x o).divideCount = s.divideCount ∧
    (s.takeText x o).owed = s.owed ∧ (s.takeText x o).self = s.self ∧ (s.takeText x o).config = s.config ∧
    (s.takeText x o).tx = s.tx ∧ (s.takeText x o).engine = s.engine ∧ (s.takeText x o).pending = s.pending ∧
    (s.takeText x o).edges = s.edges ∧
    (s.takeText x o).ticks = s.ticks ∧ (s.takeText x o).gaps = s.gaps ∧
    (s.takeText x o).unflushed = s.unflushed ∧ (s.takeText x o).flushes = s.flushes ∧
    (s.takeText x o).awaits = s.awaits ∧ (s.takeText x o).arrivals = s.arrivals := by
  simp only [State.takeText]
  split_ifs <;> simp

@[simp] theorem State.takeCheck_kept (s : State) (x : Line) (o : Byte) :
    (s.takeCheck x o).resetHigh = s.resetHigh ∧ (s.takeCheck x o).divideCount = s.divideCount ∧
    (s.takeCheck x o).owed = s.owed ∧ (s.takeCheck x o).self = s.self ∧ (s.takeCheck x o).config = s.config ∧
    (s.takeCheck x o).tx = s.tx ∧ (s.takeCheck x o).buf = s.buf ∧ (s.takeCheck x o).routes = s.routes ∧
    (s.takeCheck x o).engine = s.engine ∧ (s.takeCheck x o).emitter = s.emitter ∧ (s.takeCheck x o).count = s.count ∧
    (s.takeCheck x o).pending = s.pending ∧ (s.takeCheck x o).edges = s.edges ∧
    (s.takeCheck x o).ticks = s.ticks ∧ (s.takeCheck x o).gaps = s.gaps ∧
    (s.takeCheck x o).unflushed = s.unflushed ∧ (s.takeCheck x o).flushes = s.flushes ∧
    (s.takeCheck x o).awaits = s.awaits ∧ (s.takeCheck x o).arrivals = s.arrivals := by
  simp [State.takeCheck]

@[simp] theorem State.takeGap_kept (s : State) (x : Line) (o : Byte) :
    (s.takeGap x o).resetHigh = s.resetHigh ∧ (s.takeGap x o).divideCount = s.divideCount ∧
    (s.takeGap x o).owed = s.owed ∧ (s.takeGap x o).self = s.self ∧ (s.takeGap x o).config = s.config ∧
    (s.takeGap x o).tx = s.tx ∧ (s.takeGap x o).engine = s.engine ∧ (s.takeGap x o).pending = s.pending ∧
    (s.takeGap x o).edges = s.edges ∧
    (s.takeGap x o).ticks = s.ticks ∧ (s.takeGap x o).gaps = s.gaps ∧
    (s.takeGap x o).unflushed = s.unflushed ∧ (s.takeGap x o).flushes = s.flushes ∧
    (s.takeGap x o).awaits = s.awaits ∧ (s.takeGap x o).arrivals = s.arrivals := by
  unfold State.takeGap
  split_ifs <;> simp

@[simp] theorem State.takeGapSyn_kept (s : State) (x : Line) (o : Byte) :
    (s.takeGapSyn x o).resetHigh = s.resetHigh ∧ (s.takeGapSyn x o).divideCount = s.divideCount ∧
    (s.takeGapSyn x o).owed = s.owed ∧ (s.takeGapSyn x o).self = s.self ∧ (s.takeGapSyn x o).config = s.config ∧
    (s.takeGapSyn x o).tx = s.tx ∧ (s.takeGapSyn x o).engine = s.engine ∧ (s.takeGapSyn x o).pending = s.pending ∧
    (s.takeGapSyn x o).edges = s.edges ∧
    (s.takeGapSyn x o).ticks = s.ticks ∧ (s.takeGapSyn x o).gaps = s.gaps ∧
    (s.takeGapSyn x o).unflushed = s.unflushed ∧ (s.takeGapSyn x o).flushes = s.flushes ∧
    (s.takeGapSyn x o).awaits = s.awaits ∧ (s.takeGapSyn x o).arrivals = s.arrivals := by
  unfold State.takeGapSyn
  split_ifs <;> simp

@[simp] theorem State.admitCopies_kept (s : State) (d : Nat) (xs : List Line) :
    (State.admitCopies d xs s).resetHigh = s.resetHigh ∧
    (State.admitCopies d xs s).divideCount = s.divideCount ∧ (State.admitCopies d xs s).owed = s.owed ∧
    (State.admitCopies d xs s).self = s.self ∧ (State.admitCopies d xs s).config = s.config ∧
    (State.admitCopies d xs s).rx = s.rx ∧ (State.admitCopies d xs s).routes = s.routes ∧
    (State.admitCopies d xs s).engine.queue = s.engine.queue ∧ (State.admitCopies d xs s).pending = s.pending ∧
    (State.admitCopies d xs s).edges = s.edges ∧
    (State.admitCopies d xs s).ticks = s.ticks ∧
    (State.admitCopies d xs s).unflushed = s.unflushed ∧ (State.admitCopies d xs s).flushes = s.flushes := by
  induction xs generalizing s with
  | nil => simp [State.admitCopies]
  | cons x xs ih => simp only [State.admitCopies, ih]; simp

@[simp] theorem State.admitBlock_kept (s : State) (d : Nat) :
    (s.admitBlock d).resetHigh = s.resetHigh ∧ (s.admitBlock d).divideCount = s.divideCount ∧
    (s.admitBlock d).owed = s.owed ∧ (s.admitBlock d).self = s.self ∧
    (s.admitBlock d).config = s.config ∧ (s.admitBlock d).rx = s.rx ∧
    (s.admitBlock d).routes = s.routes ∧ (s.admitBlock d).engine.queue = s.engine.queue ∧
    (s.admitBlock d).pending = s.pending ∧ (s.admitBlock d).edges = s.edges ∧
    (s.admitBlock d).ticks = s.ticks ∧ (s.admitBlock d).unflushed = s.unflushed ∧
    (s.admitBlock d).flushes = s.flushes := by
  simp only [State.admitBlock]
  split_ifs <;> simp

@[simp] theorem State.dispatchStored_kept (s : State) (x : Line) (d : Nat) :
    (s.dispatchStored x d).resetHigh = s.resetHigh ∧ (s.dispatchStored x d).divideCount = s.divideCount ∧
    (s.dispatchStored x d).owed = s.owed ∧ (s.dispatchStored x d).self = s.self ∧
    (s.dispatchStored x d).config = s.config ∧ (s.dispatchStored x d).rx = s.rx ∧
    (s.dispatchStored x d).pending = s.pending ∧ (s.dispatchStored x d).edges = s.edges ∧
    (s.dispatchStored x d).ticks = s.ticks ∧ (s.dispatchStored x d).unflushed = s.unflushed ∧
    (s.dispatchStored x d).flushes = s.flushes := by
  unfold State.dispatchStored; split
  · simp
  · have h := s.report_kept x d
    split <;> (rename_i e; rw [e] at h; simp at h; simp [h])

@[simp] theorem State.dispatch_kept (s : State) (x : Line) (len : Nat) :
    (s.dispatch x len).resetHigh = s.resetHigh ∧ (s.dispatch x len).divideCount = s.divideCount ∧
    (s.dispatch x len).owed = s.owed ∧ (s.dispatch x len).self = s.self ∧ (s.dispatch x len).config = s.config ∧
    (s.dispatch x len).rx = s.rx ∧ (s.dispatch x len).pending = s.pending ∧ (s.dispatch x len).edges = s.edges ∧
    (s.dispatch x len).ticks = s.ticks ∧ (s.dispatch x len).unflushed = s.unflushed ∧
    (s.dispatch x len).flushes = s.flushes := by
  simp only [State.dispatch]
  split <;> simp

@[simp] theorem State.completeBlock_kept (s : State) (x : Line) (o : Byte) :
    (s.completeBlock x o).resetHigh = s.resetHigh ∧ (s.completeBlock x o).divideCount = s.divideCount ∧
    (s.completeBlock x o).owed = s.owed ∧ (s.completeBlock x o).self = s.self ∧
    (s.completeBlock x o).config = s.config ∧ (s.completeBlock x o).pending = s.pending ∧
    (s.completeBlock x o).edges = s.edges ∧
    (s.completeBlock x o).ticks = s.ticks ∧ (s.completeBlock x o).unflushed = s.unflushed ∧
    (s.completeBlock x o).flushes = s.flushes := by
  simp only [State.completeBlock]
  split <;> simp

@[simp] theorem State.takeOctet_kept (s : State) (x : Line) (o : Byte) :
    (s.takeOctet x o).resetHigh = s.resetHigh ∧ (s.takeOctet x o).divideCount = s.divideCount ∧
    (s.takeOctet x o).owed = s.owed ∧ (s.takeOctet x o).self = s.self ∧ (s.takeOctet x o).config = s.config ∧
    (s.takeOctet x o).pending = s.pending ∧ (s.takeOctet x o).edges = s.edges ∧
    (s.takeOctet x o).ticks = s.ticks ∧ (s.takeOctet x o).unflushed = s.unflushed ∧
    (s.takeOctet x o).flushes = s.flushes := by
  unfold State.takeOctet
  split <;> (try split_ifs) <;> simp

@[simp] theorem State.receiveBit_kept (s : State) (x : Line) (bit : Bool) :
    (s.receiveBit x bit).resetHigh = s.resetHigh ∧ (s.receiveBit x bit).divideCount = s.divideCount ∧
    (s.receiveBit x bit).owed = s.owed ∧ (s.receiveBit x bit).self = s.self ∧ (s.receiveBit x bit).config = s.config ∧
    (s.receiveBit x bit).pending = s.pending ∧ (s.receiveBit x bit).edges = s.edges ∧
    (s.receiveBit x bit).ticks = s.ticks ∧ (s.receiveBit x bit).unflushed = s.unflushed ∧
    (s.receiveBit x bit).flushes = s.flushes := by
  simp only [State.receiveBit]
  split
  · simp
  · split_ifs <;> simp

@[simp] theorem State.flushQueue_kept (s : State) (x : Line) (c : QClass) :
    (s.flushQueue x c).resetHigh = s.resetHigh ∧ (s.flushQueue x c).divideCount = s.divideCount ∧
    (s.flushQueue x c).owed = s.owed ∧ (s.flushQueue x c).self = s.self ∧ (s.flushQueue x c).config = s.config ∧
    (s.flushQueue x c).rx = s.rx ∧ (s.flushQueue x c).routes = s.routes ∧ (s.flushQueue x c).engine = s.engine ∧
    (s.flushQueue x c).pending = s.pending ∧ (s.flushQueue x c).edges = s.edges ∧
    (s.flushQueue x c).ticks = s.ticks ∧ (s.flushQueue x c).gaps = s.gaps ∧
    (s.flushQueue x c).unflushed = s.unflushed ∧ (s.flushQueue x c).flushes = s.flushes ∧
    (s.flushQueue x c).awaits = s.awaits ∧ (s.flushQueue x c).arrivals = s.arrivals := by
  have h : ∀ (l : List Nat) (s : State), 
      (l.foldl (fun s t => s.releaseTicket t .flush) s).resetHigh = s.resetHigh ∧
      (l.foldl (fun s t => s.releaseTicket t .flush) s).divideCount = s.divideCount ∧ (l.foldl (fun s t => s.releaseTicket t .flush) s).owed = s.owed ∧
      (l.foldl (fun s t => s.releaseTicket t .flush) s).self = s.self ∧
      (l.foldl (fun s t => s.releaseTicket t .flush) s).config = s.config ∧
      (l.foldl (fun s t => s.releaseTicket t .flush) s).rx = s.rx ∧
      (l.foldl (fun s t => s.releaseTicket t .flush) s).tx = s.tx ∧
      (l.foldl (fun s t => s.releaseTicket t .flush) s).routes = s.routes ∧
      (l.foldl (fun s t => s.releaseTicket t .flush) s).engine = s.engine ∧
      (l.foldl (fun s t => s.releaseTicket t .flush) s).pending = s.pending ∧ (l.foldl (fun s t => s.releaseTicket t .flush) s).edges = s.edges ∧
      (l.foldl (fun s t => s.releaseTicket t .flush) s).ticks = s.ticks ∧ (l.foldl (fun s t => s.releaseTicket t .flush) s).gaps = s.gaps ∧
    (l.foldl (fun s t => s.releaseTicket t .flush) s).unflushed = s.unflushed ∧ (l.foldl (fun s t => s.releaseTicket t .flush) s).flushes = s.flushes ∧
    (l.foldl (fun s t => s.releaseTicket t .flush) s).awaits = s.awaits ∧ (l.foldl (fun s t => s.releaseTicket t .flush) s).arrivals = s.arrivals := by
    intro l
    induction l with
    | nil => intro s; simp
    | cons t l ih => intro s; simp only [List.foldl_cons, ih]; simp
  simp only [State.flushQueue]; simp [h]

@[simp] theorem State.flushClasses_kept (s : State) (x : Line) (cs : List QClass) :
    (s.flushClasses x cs).resetHigh = s.resetHigh ∧ (s.flushClasses x cs).divideCount = s.divideCount ∧
    (s.flushClasses x cs).owed = s.owed ∧ (s.flushClasses x cs).self = s.self ∧
    (s.flushClasses x cs).config = s.config ∧ (s.flushClasses x cs).rx = s.rx ∧
    (s.flushClasses x cs).routes = s.routes ∧ (s.flushClasses x cs).engine = s.engine ∧
    (s.flushClasses x cs).pending = s.pending ∧ (s.flushClasses x cs).edges = s.edges ∧
    (s.flushClasses x cs).ticks = s.ticks ∧ (s.flushClasses x cs).gaps = s.gaps ∧
    (s.flushClasses x cs).unflushed = s.unflushed ∧ (s.flushClasses x cs).flushes = s.flushes ∧
    (s.flushClasses x cs).awaits = s.awaits ∧ (s.flushClasses x cs).arrivals = s.arrivals := by
  unfold State.flushClasses
  induction cs generalizing s with
  | nil => simp
  | cons c cs ih => simp only [List.foldl_cons, ih]; simp

@[simp] theorem State.takeSession_kept (s : State) :
    s.takeSession.resetHigh = s.resetHigh ∧ s.takeSession.divideCount = s.divideCount ∧ s.takeSession.owed = s.owed ∧
    s.takeSession.self = s.self ∧ s.takeSession.config = s.config ∧ s.takeSession.rx = s.rx ∧ s.takeSession.tx = s.tx ∧
    s.takeSession.routes = s.routes ∧ s.takeSession.emitter = s.emitter ∧ s.takeSession.pending = s.pending ∧
    s.takeSession.edges = s.edges ∧
    s.takeSession.ticks = s.ticks ∧ s.takeSession.gaps = s.gaps ∧
    s.takeSession.unflushed = s.unflushed ∧ s.takeSession.flushes = s.flushes ∧
    s.takeSession.awaits = s.awaits ∧ s.takeSession.arrivals = s.arrivals := by
  unfold State.takeSession
  split <;> simp

@[simp] theorem State.withSession_kept (s : State) (ss : Session) :
    (s.withSession ss).resetHigh = s.resetHigh ∧ (s.withSession ss).divideCount = s.divideCount ∧
    (s.withSession ss).owed = s.owed ∧ (s.withSession ss).self = s.self ∧ (s.withSession ss).config = s.config ∧
    (s.withSession ss).rx = s.rx ∧ (s.withSession ss).tx = s.tx ∧ (s.withSession ss).buf = s.buf ∧
    (s.withSession ss).routes = s.routes ∧ (s.withSession ss).emitter = s.emitter ∧ (s.withSession ss).count = s.count ∧
    (s.withSession ss).pending = s.pending ∧ (s.withSession ss).edges = s.edges ∧
    (s.withSession ss).ticks = s.ticks ∧ (s.withSession ss).gaps = s.gaps ∧
    (s.withSession ss).unflushed = s.unflushed ∧ (s.withSession ss).flushes = s.flushes ∧
    (s.withSession ss).awaits = s.awaits ∧ (s.withSession ss).arrivals = s.arrivals := by
  simp [State.withSession]

@[simp] theorem State.answer_kept (s : State) (h : RecordHead) (status : Status) (data : List Byte) :
    (s.answer h status data).resetHigh = s.resetHigh ∧ (s.answer h status data).divideCount = s.divideCount ∧
    (s.answer h status data).owed = s.owed ∧ (s.answer h status data).self = s.self ∧
    (s.answer h status data).config = s.config ∧ (s.answer h status data).rx = s.rx ∧
    (s.answer h status data).tx = s.tx ∧ (s.answer h status data).routes = s.routes ∧
    (s.answer h status data).emitter = s.emitter ∧ (s.answer h status data).pending = s.pending ∧
    (s.answer h status data).edges = s.edges ∧
    (s.answer h status data).ticks = s.ticks ∧ (s.answer h status data).gaps = s.gaps ∧
    (s.answer h status data).unflushed = s.unflushed ∧ (s.answer h status data).flushes = s.flushes ∧
    (s.answer h status data).awaits = s.awaits ∧ (s.answer h status data).arrivals = s.arrivals := by
  unfold State.answer
  split <;> simp

@[simp] theorem State.answerMalformed_kept (s : State) (ss : Session) (code tag : Byte) :
    (s.answerMalformed ss code tag).resetHigh = s.resetHigh ∧
    (s.answerMalformed ss code tag).divideCount = s.divideCount ∧ (s.answerMalformed ss code tag).owed = s.owed ∧
    (s.answerMalformed ss code tag).self = s.self ∧ (s.answerMalformed ss code tag).config = s.config ∧
    (s.answerMalformed ss code tag).rx = s.rx ∧ (s.answerMalformed ss code tag).tx = s.tx ∧
    (s.answerMalformed ss code tag).routes = s.routes ∧ (s.answerMalformed ss code tag).emitter = s.emitter ∧
    (s.answerMalformed ss code tag).count = s.count ∧ (s.answerMalformed ss code tag).pending = s.pending ∧
    (s.answerMalformed ss code tag).edges = s.edges ∧
    (s.answerMalformed ss code tag).ticks = s.ticks ∧ (s.answerMalformed ss code tag).gaps = s.gaps ∧
    (s.answerMalformed ss code tag).unflushed = s.unflushed ∧ (s.answerMalformed ss code tag).flushes = s.flushes ∧
    (s.answerMalformed ss code tag).awaits = s.awaits ∧ (s.answerMalformed ss code tag).arrivals = s.arrivals := by
  simp [State.answerMalformed]

@[simp] theorem State.expireInterval_kept (s : State) :
    s.expireInterval.resetHigh = s.resetHigh ∧ s.expireInterval.divideCount = s.divideCount ∧
    s.expireInterval.owed = s.owed ∧ s.expireInterval.self = s.self ∧ s.expireInterval.config = s.config ∧
    s.expireInterval.rx = s.rx ∧ s.expireInterval.tx = s.tx ∧ s.expireInterval.buf = s.buf ∧
    s.expireInterval.routes = s.routes ∧ s.expireInterval.engine = s.engine ∧ s.expireInterval.count = s.count ∧
    s.expireInterval.pending = s.pending ∧ s.expireInterval.edges = s.edges ∧
    s.expireInterval.ticks = s.ticks ∧ s.expireInterval.gaps = s.gaps ∧
    s.expireInterval.unflushed = s.unflushed ∧ s.expireInterval.flushes = s.flushes ∧
    s.expireInterval.awaits = s.awaits ∧ s.expireInterval.arrivals = s.arrivals := by
  unfold State.expireInterval
  split_ifs <;> simp

@[simp] theorem State.setConfig_kept (s : State) (x : Line) (c : LineConfig) :
    (s.setConfig x c).resetHigh = s.resetHigh ∧ (s.setConfig x c).divideCount = s.divideCount ∧
    (s.setConfig x c).owed = s.owed ∧ (s.setConfig x c).self = s.self ∧ (s.setConfig x c).tx = s.tx ∧
    (s.setConfig x c).engine = s.engine ∧ (s.setConfig x c).count = s.count ∧ (s.setConfig x c).pending = s.pending ∧
    (s.setConfig x c).edges = s.edges ∧
    (s.setConfig x c).ticks = s.ticks ∧ (s.setConfig x c).gaps = s.gaps ∧
    (s.setConfig x c).unflushed = s.unflushed ∧ (s.setConfig x c).flushes = s.flushes ∧
    (s.setConfig x c).awaits = s.awaits ∧ (s.setConfig x c).arrivals = s.arrivals := by
  simp only [State.setConfig]
  split_ifs <;> simp

@[simp] theorem State.setSlot_kept (s : State) (n : Nat) (v : Slot) :
    (s.setSlot n v).resetHigh = s.resetHigh ∧ (s.setSlot n v).divideCount = s.divideCount ∧
    (s.setSlot n v).owed = s.owed ∧ (s.setSlot n v).self = s.self ∧ (s.setSlot n v).config = s.config ∧
    (s.setSlot n v).rx = s.rx ∧ (s.setSlot n v).tx = s.tx ∧ (s.setSlot n v).buf = s.buf ∧
    (s.setSlot n v).engine = s.engine ∧ (s.setSlot n v).emitter = s.emitter ∧ (s.setSlot n v).count = s.count ∧
    (s.setSlot n v).pending = s.pending ∧ (s.setSlot n v).edges = s.edges ∧
    (s.setSlot n v).ticks = s.ticks ∧ (s.setSlot n v).gaps = s.gaps ∧
    (s.setSlot n v).unflushed = s.unflushed ∧ (s.setSlot n v).flushes = s.flushes ∧
    (s.setSlot n v).awaits = s.awaits ∧ (s.setSlot n v).arrivals = s.arrivals := by
  simp [State.setSlot]

@[simp] theorem State.discardQueue_kept (s : State) :
    s.discardQueue.resetHigh = s.resetHigh ∧ s.discardQueue.divideCount = s.divideCount ∧ s.discardQueue.owed = s.owed ∧
    s.discardQueue.self = s.self ∧ s.discardQueue.config = s.config ∧ s.discardQueue.rx = s.rx ∧
    s.discardQueue.tx = s.tx ∧ s.discardQueue.routes = s.routes ∧ s.discardQueue.count = s.count ∧
    s.discardQueue.pending = s.pending ∧ s.discardQueue.edges = s.edges ∧
    s.discardQueue.ticks = s.ticks ∧ s.discardQueue.gaps = s.gaps ∧
    s.discardQueue.unflushed = s.unflushed ∧ s.discardQueue.flushes = s.flushes ∧
    s.discardQueue.awaits = s.awaits ∧ s.discardQueue.arrivals = s.arrivals := by
  have h : ∀ (l : List Nat) (s : State), 
      (l.foldl (fun s d => s.freeDesc d) s).resetHigh = s.resetHigh ∧
      (l.foldl (fun s d => s.freeDesc d) s).divideCount = s.divideCount ∧ (l.foldl (fun s d => s.freeDesc d) s).owed = s.owed ∧
      (l.foldl (fun s d => s.freeDesc d) s).self = s.self ∧ (l.foldl (fun s d => s.freeDesc d) s).config = s.config ∧
      (l.foldl (fun s d => s.freeDesc d) s).rx = s.rx ∧ (l.foldl (fun s d => s.freeDesc d) s).tx = s.tx ∧
      (l.foldl (fun s d => s.freeDesc d) s).routes = s.routes ∧
      (l.foldl (fun s d => s.freeDesc d) s).engine = s.engine ∧
      (l.foldl (fun s d => s.freeDesc d) s).count = s.count ∧
      (l.foldl (fun s d => s.freeDesc d) s).pending = s.pending ∧ (l.foldl (fun s d => s.freeDesc d) s).edges = s.edges ∧
      (l.foldl (fun s d => s.freeDesc d) s).ticks = s.ticks ∧ (l.foldl (fun s d => s.freeDesc d) s).gaps = s.gaps ∧
    (l.foldl (fun s d => s.freeDesc d) s).unflushed = s.unflushed ∧ (l.foldl (fun s d => s.freeDesc d) s).flushes = s.flushes ∧
    (l.foldl (fun s d => s.freeDesc d) s).awaits = s.awaits ∧ (l.foldl (fun s d => s.freeDesc d) s).arrivals = s.arrivals := by
    intro l
    induction l with
    | nil => intro s; simp
    | cons t l ih => intro s; simp only [List.foldl_cons, ih]; simp
  simp [State.discardQueue, h]

@[simp] theorem State.flushPart_kept (s : State) (k : FlushPart) :
    (s.flushPart k).resetHigh = s.resetHigh ∧ (s.flushPart k).divideCount = s.divideCount ∧
    (s.flushPart k).owed = s.owed ∧ (s.flushPart k).self = s.self ∧ (s.flushPart k).config = s.config ∧
    (s.flushPart k).pending = s.pending ∧ (s.flushPart k).edges = s.edges ∧ (s.flushPart k).ticks = s.ticks ∧
    (s.flushPart k).gaps = s.gaps ∧ (s.flushPart k).awaits = s.awaits ∧ (s.flushPart k).arrivals = s.arrivals ∧
    (s.flushPart k).unflushed = s.unflushed ∧ (s.flushPart k).flushes = s.flushes := by
  cases k <;> simp [State.flushPart]

@[simp] theorem State.makePart_kept (s : State) (k : FlushPart) :
    (s.makePart k).resetHigh = s.resetHigh ∧ (s.makePart k).divideCount = s.divideCount ∧
    (s.makePart k).owed = s.owed ∧ (s.makePart k).self = s.self ∧ (s.makePart k).config = s.config ∧
    (s.makePart k).pending = s.pending ∧ (s.makePart k).edges = s.edges ∧ (s.makePart k).ticks = s.ticks ∧
    (s.makePart k).gaps = s.gaps ∧ (s.makePart k).awaits = s.awaits ∧ (s.makePart k).arrivals = s.arrivals ∧
    (s.makePart k).flushes = s.flushes := by
  unfold State.makePart
  split_ifs <;> simp

@[simp] theorem State.foldMakePart_kept (s : State) (ks : List FlushPart) :
    (ks.foldl State.makePart s).resetHigh = s.resetHigh ∧ (ks.foldl State.makePart s).divideCount = s.divideCount ∧
    (ks.foldl State.makePart s).owed = s.owed ∧ (ks.foldl State.makePart s).self = s.self ∧
    (ks.foldl State.makePart s).config = s.config ∧ (ks.foldl State.makePart s).pending = s.pending ∧
    (ks.foldl State.makePart s).edges = s.edges ∧ (ks.foldl State.makePart s).ticks = s.ticks ∧
    (ks.foldl State.makePart s).gaps = s.gaps ∧ (ks.foldl State.makePart s).awaits = s.awaits ∧
    (ks.foldl State.makePart s).arrivals = s.arrivals ∧ (ks.foldl State.makePart s).flushes = s.flushes := by
  induction ks generalizing s with
  | nil => simp
  | cons k ks ih => simp only [List.foldl_cons, ih]; simp

/-- A step of a FLUSH-ALL takes its front from the list of flushes. -/
@[simp] theorem State.makeParts_kept (s : State) :
    s.makeParts.resetHigh = s.resetHigh ∧ s.makeParts.divideCount = s.divideCount ∧ s.makeParts.owed = s.owed ∧
    s.makeParts.self = s.self ∧ s.makeParts.config = s.config ∧ s.makeParts.pending = s.pending ∧
    s.makeParts.edges = s.edges ∧ s.makeParts.ticks = s.ticks ∧ s.makeParts.gaps = s.gaps ∧
    s.makeParts.awaits = s.awaits ∧ s.makeParts.arrivals = s.arrivals ∧
    s.makeParts.flushes = s.flushes.tail := by
  simp [State.makeParts]

@[simp] theorem State.flushAll_kept (s : State) :
    s.flushAll.resetHigh = s.resetHigh ∧ s.flushAll.divideCount = s.divideCount ∧ s.flushAll.owed = s.owed ∧
    s.flushAll.self = s.self ∧ s.flushAll.config = s.config ∧ s.flushAll.pending = s.pending ∧
    s.flushAll.edges = s.edges ∧ s.flushAll.ticks = s.ticks ∧ s.flushAll.gaps = s.gaps ∧
    s.flushAll.awaits = s.awaits ∧ s.flushAll.arrivals = s.arrivals ∧
    s.flushAll.flushes = s.flushes.tail := by
  simp [State.flushAll]

end Sys2Proof.Machine
end

