-- ==== Sys2Proof/Laws/Due.lean ====
section
/-! SUPPORT. What is due between events: in a quiet part nothing is, so a command acts on the part as it stands; how the
Notice Emitter takes its events; what a FLUSH-ALL leaves to be done. -/

namespace Sys2Proof.Machine

/-! ### Taking events -/

@[simp] theorem State.buildIfDue_inbox (s : State) : s.buildIfDue.emitter.inbox = s.emitter.inbox := by
  unfold State.buildIfDue
  split_ifs <;> rfl

/-- The place of the next event is one that the inbox has. -/
theorem State.nextArrival_lt (s : State) (h : s.emitter.inbox ≠ []) : s.nextArrival < s.emitter.inbox.length := by
  unfold State.nextArrival
  split_ifs with h1
  · exact h1
  · exact List.length_pos_iff.2 h

/-- One event fewer waits once one is taken. -/
theorem State.takeEvent_length (s : State) :
    s.takeEvent.emitter.inbox.length = s.emitter.inbox.length - 1 := by
  unfold State.takeEvent
  by_cases h : s.emitter.inbox = []
  · simp [h]
  · have hlt := s.nextArrival_lt h
    rw [List.getElem?_eq_getElem hlt]
    simp [List.length_eraseIdx, hlt]

/-- With no event on its way the emitter builds the notice that is due. -/
theorem State.drain_of_nil (s : State) (h : s.emitter.inbox = []) : s.drain = s.buildIfDue := by
  simp [State.drain, h, State.takeEvents]

/-- The emitter takes its events one at a time, a notice that is due being built before each. -/
theorem State.drain_of_cons (s : State) (h : s.emitter.inbox ≠ []) : s.drain = s.buildIfDue.takeEvent.drain := by
  obtain ⟨n, hn⟩ := Nat.exists_eq_succ_of_ne_zero (Nat.ne_of_gt (List.length_pos_iff.2 h))
  have hl : s.buildIfDue.takeEvent.emitter.inbox.length = n := by
    rw [State.takeEvent_length, State.buildIfDue_inbox, hn]
    rfl
  rw [State.drain, hn, State.takeEvents, State.drain, hl]

@[simp] theorem State.buildNotice_buildDue (s : State) : s.buildNotice.buildDue = false := by
  simp [State.buildDue, State.buildable, State.buildNotice, PendingSet.isEmpty]

@[simp] theorem State.buildIfDue_buildDue (s : State) : s.buildIfDue.buildDue = false := by
  unfold State.buildIfDue
  split_ifs with h
  · simp
  · simpa using h

/-- Once the emitter has taken its events, none waits and no notice is due. -/
@[simp] theorem State.drain_done (s : State) : s.drain.emitter.inbox = [] ∧ s.drain.buildDue = false := by
  have key : ∀ (n : Nat) (s : State), s.emitter.inbox.length = n →
      (State.takeEvents n s).emitter.inbox = [] ∧ (State.takeEvents n s).buildDue = false := by
    intro n
    induction n with
    | zero => intro s h; exact ⟨by simpa [State.takeEvents] using h, by simp [State.takeEvents]⟩
    | succ n ih =>
      intro s h
      exact ih _ (by rw [State.takeEvent_length, State.buildIfDue_inbox, h]; rfl)
  exact key _ s rfl

/-! ### What is due -/

theorem State.quiet_iff (s : State) :
    s.quiet = true ↔
      s.resetHigh = false ∧ s.reinitDue = false ∧ s.takeDue = false ∧ s.emitter.inbox = [] ∧ s.buildDue = false := by
  simp [State.quiet, and_assoc]

theorem State.drain_of_quiet (s : State) (h : s.quiet = true) : s.drain = s := by
  obtain ⟨-, -, -, h1, h2⟩ := s.quiet_iff.1 h
  rw [s.drain_of_nil h1, State.buildIfDue, if_neg (by simp [h2])]

theorem State.settle_of_quiet (s : State) (h : s.quiet = true) : s.settle = s := by
  obtain ⟨-, h1, h2, -⟩ := s.quiet_iff.1 h
  simp [State.settle, State.reinitIfDue, State.takeIfDue, h1, h2, s.drain_of_quiet h]

/-- In a quiet part a step is its effect on the part as it stands. -/
theorem State.running_of_quiet (s : State) (f : State → State) (h : s.quiet = true) : s.running f = f s := by
  rw [State.running, if_neg (by simp [(s.quiet_iff.1 h).1]), s.settle_of_quiet h]

/-- While RESET is high nothing reaches the part. -/
theorem State.running_of_reset (s : State) (f : State → State) (h : s.resetHigh = true) : s.running f = s := by
  simp [State.running, h]

theorem State.running_of_low (s : State) (f : State → State) (h : s.resetHigh = false) : s.running f = f s.settle := by
  simp [State.running, h]

/-- What a reset leaves is State.reset but for the level of TDx, the cell contents, and the model's own inputs. -/
@[simp] theorem State.resetPart_values (s : State) :
    s.resetPart.resetHigh = false ∧ s.resetPart.divideCount = 0 ∧ s.resetPart.owed = [] ∧
    s.resetPart.unflushed = [] ∧ s.resetPart.self = State.reset.self ∧ s.resetPart.config = State.reset.config ∧
    s.resetPart.rx = State.reset.rx ∧ s.resetPart.tx = s.tx.map (fun e => { tdx := e.tdx }) ∧
    s.resetPart.buf = { State.reset.buf with mem := s.buf.mem } ∧ s.resetPart.routes = State.reset.routes ∧
    s.resetPart.engine = State.reset.engine ∧ s.resetPart.emitter = State.reset.emitter ∧
    s.resetPart.count = State.reset.count ∧ s.resetPart.pending = s.pending ∧ s.resetPart.edges = s.edges ∧
    s.resetPart.ticks = s.ticks ∧ s.resetPart.gaps = s.gaps ∧ s.resetPart.flushes = s.flushes ∧
    s.resetPart.awaits = s.awaits ∧ s.resetPart.arrivals = s.arrivals := by
  refine ⟨rfl, rfl, rfl, rfl, rfl, rfl, rfl, rfl, rfl, rfl, rfl, rfl, rfl, rfl, rfl, rfl, rfl, rfl, rfl, rfl⟩

@[simp] theorem State.settle_inputs (s : State) :
    s.settle.pending = s.pending ∧ s.settle.edges = s.edges ∧ s.settle.ticks = s.ticks ∧ s.settle.gaps = s.gaps ∧
    s.settle.flushes = s.flushes := by
  simp only [State.settle, State.reinitIfDue, State.takeIfDue]
  split_ifs <;> simp

theorem State.settle_resetHigh (s : State) (h : s.resetHigh = false) : s.settle.resetHigh = false := by
  simp only [State.settle, State.reinitIfDue, State.takeIfDue]
  split_ifs <;> simp_all

/-! ### The parts of a FLUSH-ALL -/

/-- Between FLUSH-ALLs a step of the engine's own in a quiet part is its effect on the part as it stands. -/
theorem State.atRecord_of_quiet (s : State) (f : State → State) (h : s.quiet = true) (hu : s.unflushed = []) :
    s.atRecord f = f s := by
  rw [State.atRecord, s.running_of_quiet _ h, State.finishFlush, if_pos hu]

/-- A part that is made is no longer to be made. -/
theorem State.makePart_unflushed (s : State) (k : FlushPart) : (s.makePart k).unflushed = s.unflushed.erase k := by
  unfold State.makePart
  split_ifs with h
  · simp
  · exact (List.erase_of_not_mem h).symm

/-- A part that has been made is not made again. -/
theorem State.makePart_of_made (s : State) (k : FlushPart) (h : k ∉ s.unflushed) : s.makePart k = s := by
  simp [State.makePart, h]

theorem State.foldMakePart_unflushed (s : State) (ks : List FlushPart) :
    (ks.foldl State.makePart s).unflushed = s.unflushed.diff ks := by
  induction ks generalizing s with
  | nil => simp
  | cons k ks ih => rw [List.foldl_cons, ih, State.makePart_unflushed, List.diff_cons]

/-- Where no parts are listed a FLUSH-ALL makes all seven at once. -/
theorem State.flushAll_of_none_listed (s : State) (h : s.flushes = []) :
    s.flushAll.unflushed = [] := by
  simp only [State.flushAll, State.makeParts, h, List.headD_nil, State.foldMakePart_unflushed]
  decide

end Sys2Proof.Machine
end

