-- ==== Sys2Proof/Laws/Receivers.lean ====
section
/-! SUPPORT. The receivers: bits and octets, what an octet command is in a quiet part, and what a returned block leaves. -/

namespace Sys2Proof.Machine

theorem octetOf_octetBits (o : Byte) : octetOf (octetBits o) = o := by
  revert o
  decide +kernel

/-- Eight bits in line order spell an octet exactly when they are its bits (section 4). -/
theorem octetBits_iff (h : List Bool) (o : Byte) : (h.length = 8 ∧ octetOf h = o) ↔ h = octetBits o := by
  constructor
  · rintro ⟨hl, rfl⟩
    match h, hl with
    | [a, b, c, d, e, f, g, i], _ =>
      revert a b c d e f g i
      decide
  · rintro rfl
    exact ⟨rfl, octetOf_octetBits o⟩

/-- In a quiet part whose receiver stands at an octet boundary an octet command is the octet taken as the state gives. -/
theorem State.octet_of_hears (s : State) (x : Line) (o : Byte) (st : RxState) (h : s.hears x st) :
    s.running (fun s => s.receiveOctet x o) =
      (s.modRx x fun r => { r with history := octetBits o }).takeOctet x o := by
  rw [State.running_of_quiet _ _ h.1, State.receiveOctet, if_pos h.2.2]

/-- Freeing a general descriptor returns it, and raises what the rise of the free cells raises (R47, R53). -/
theorem Buffer.freeDesc_returned (b : Buffer) (d : Nat) (h : d < 126) (hl : b.descs.length = 128) :
    b.returned (b.freeDesc d).1 d ∧ (b.freeDesc d).2 = b.freedEvents d := by
  obtain ⟨h1, h2, h3⟩ := Buffer.freeDesc_general b d h
  have hd : (b.freeDesc d).1.desc d =
      { b.desc d with state := .free, chain := [], tickets := 0, bound := .none } := by
    simp [Buffer.desc, Buffer.freeDesc_descs, List.getD_eq_getElem?_getD, show d < b.descs.length by omega]
  have hle : b.freeCells.length ≤ (b.freeCells ++ (b.desc d).chain).length := by simp
  have key : (b.freeDesc d).1.lowArmed =
      (b.lowArmed || decide (b.freeCells.length ≤ 96 ∧ 96 < (b.freeCells ++ (b.desc d).chain).length)) ∧
      (b.freeDesc d).2 = b.freedEvents d := by
    have e : b.freeDesc d =
        ({ (b.modDesc d fun v => { v with state := .free, chain := [], tickets := 0, bound := .none }) with
          freeCells := b.freeCells ++ (b.desc d).chain
          freeDescs := b.freeDescs ++ [d] } : Buffer).threshold b.freeCells.length := by
      simp [Buffer.freeDesc, h]
    rw [e]
    simp only [Buffer.threshold, Buffer.freedEvents, Buffer.modDesc, Config.lowLevel, Config.highLevel,
      List.length_append]
    rcases Bool.eq_false_or_eq_true b.lowArmed with hb | hb
    · have h1 : ¬(48 ≤ b.freeCells.length ∧ b.freeCells.length + (b.desc d).chain.length < 48) := by omega
      simp [hb, h1]
    · by_cases h1 : b.freeCells.length ≤ 96 ∧ 96 < b.freeCells.length + (b.desc d).chain.length
      · simp [hb, h1]
      · simp [hb, h1]
  refine ⟨⟨h2, h1, by rw [hd], by rw [hd], by rw [hd], by rw [hd], fun n hn => Buffer.freeDesc_desc_other b hn,
    by rw [key.1, h1], h3, ?_⟩, key.2⟩
  simp

/-- What a STORE block's descriptor gives back (R34). -/
theorem State.returnBlock_stores (s : State) (x : Line) (d : Nat) (h : s.stores x d) :
    s.buf.returned (s.returnBlock x).buf d ∧ s.bindReleased (s.returnBlock x) d ∧
      (s.returnBlock x).emitter = s.emitter.hear (s.returnEvents d) := by
  obtain ⟨hf, hd, hl⟩ := h
  have e : s.returnBlock x = (s.releaseBind d).freeDesc d := by simp [State.returnBlock, hf]
  let b1 := s.buf.modDesc d fun v => { v with bound := .none }
  have hb : (s.releaseBind d).buf = b1 := by
    unfold State.releaseBind
    split <;> rfl
  have hl1 : b1.descs.length = 128 := by simp [b1, hl]
  have hd1 : b1.desc d = { s.buf.desc d with bound := .none } :=
    Buffer.desc_modDesc_same s.buf d _ (by omega)
  have hn1 : ∀ n, n ≠ d → b1.desc n = s.buf.desc n := fun n hn => Buffer.desc_modDesc_other s.buf _ hn
  obtain ⟨r, hev⟩ := Buffer.freeDesc_returned b1 d hd hl1
  have hfe : b1.freedEvents d = s.buf.freedEvents d := by
    simp only [Buffer.freedEvents, hd1]
    rfl
  have hbuf : (s.returnBlock x).buf = (b1.freeDesc d).1 := by rw [e, State.freeDesc, State.withBuf_buf, hb]
  refine ⟨?_, ?_, ?_⟩
  · rw [hbuf]
    obtain ⟨r1, r2, r3, r4, r5, r6, r7, r8, r9⟩ := r
    rw [hd1] at r2
    exact ⟨r1, r2, r3, r4, r5, r6, fun n hn => (r7 n hn).trans (hn1 n hn), r8, r9⟩
  · have hr : (s.returnBlock x).routes = (s.releaseBind d).routes := by rw [e]; simp
    unfold State.bindReleased
    rw [hr]
    unfold State.releaseBind
    cases hbd : (s.buf.desc d).bound with
    | none => rfl
    | default y => rfl
    | slot n =>
      intro m
      simp only [State.withRoutes_routes, State.modDesc_kept, RouteTable.release]
      by_cases hm : m = n
      · subst hm
        rw [if_pos rfl]
        cases hs : s.routes.slot m with
        | free => simpa [Slot.released] using hs
        | active v =>
          have hlt : m < s.routes.slots.length := by
            by_contra hge
            simp [RouteTable.slot, List.getD_eq_getElem?_getD, Nat.not_lt.1 hge] at hs
          simp [RouteTable.slot, RouteTable.setSlot, Slot.released, List.getD_eq_getElem?_getD, hlt]
        | retiring v =>
          have hlt : m < s.routes.slots.length := by
            by_contra hge
            simp [RouteTable.slot, List.getD_eq_getElem?_getD, Nat.not_lt.1 hge] at hs
          by_cases hz : v.binds ≤ 1
          · have hz' : v.binds - 1 = 0 := by omega
            simp [RouteTable.slot, RouteTable.setSlot, Slot.released, List.getD_eq_getElem?_getD, hlt, hz, hz']
          · have hz' : ¬v.binds - 1 = 0 := by omega
            simp [RouteTable.slot, RouteTable.setSlot, Slot.released, List.getD_eq_getElem?_getD, hlt, hz, hz']
      · rw [if_neg hm]
        have other : ∀ v, (s.routes.setSlot n v).slot m = s.routes.slot m := fun v => by
          simp [RouteTable.slot, RouteTable.setSlot, List.getD_eq_getElem?_getD, Ne.symm hm]
        cases s.routes.slot n with
        | free => rfl
        | active v => exact other _
        | retiring v =>
          simp only
          split <;> exact other _
  · have he : (s.returnBlock x).emitter = (s.releaseBind d).emitter.hear (b1.freeDesc d).2 := by
      rw [e, State.freeDesc, State.withBuf_emitter, hb]
    rw [he, hev, hfe, State.returnEvents, Emitter.hear_append]
    congr 1
    unfold State.releaseBind
    cases hbd : (s.buf.desc d).bound with
    | none => simp
    | default y => simp
    | slot n =>
      simp only [State.withRoutes_emitter, State.modDesc_kept, RouteTable.release]
      cases s.routes.slot n with
      | free => simp
      | active v => simp
      | retiring v =>
        simp only
        by_cases hz : v.binds ≤ 1
        · have hz' : v.binds - 1 = 0 := by omega
          simp [hz, hz']
        · have hz' : ¬v.binds - 1 = 0 := by omega
          simp [hz, hz']

end Sys2Proof.Machine
end

