-- ==== Sys2Proof/Laws/Timebase.lean ====
section
/-! SUPPORT. The tick: what it does to each block that takes it, and what it leaves as it was. -/

namespace Sys2Proof.Machine

/-- In a quiet part the tick under way reaches a block at once. -/
theorem State.deliver_of_quiet (s : State) (k : TickTaker) (h : s.quiet = true) (hk : k ∈ s.owed) :
    s.deliver k = s.reach k := by
  rw [State.deliver, s.settle_of_quiet h, if_pos hk]

/-- A block that has taken the tick takes it no second time. -/
theorem State.deliver_of_taken (s : State) (k : TickTaker) (h : s.quiet = true) (hk : k ∉ s.owed) :
    s.deliver k = s := by
  rw [State.deliver, s.settle_of_quiet h, if_neg hk]

/-- The tick at a queue block ages its WAITING tickets and changes nothing else (R104). -/
theorem State.reach_queue (s : State) (x : Line) :
    s.reach (.queue x) = { s with owed := s.owed.erase (.queue x), buf := s.buf.ageTickets x } := rfl

/-- The tick at a countdown that is not at its last millisecond lowers it (R30). -/
theorem State.reach_deadline_running (s : State) (x : Line) (n : Nat) (h : (s.rx.get x).deadline = .running (n + 2)) :
    s.reach (.deadline x) =
      ({ s with owed := s.owed.erase (.deadline x) }).modRx x fun r => { r with deadline := .running (n + 1) } := by
  have hd : (s.rx.get x).deadline.tick = .running (n + 1) := by rw [h]; rfl
  simp only [State.reach, State.tickTo, State.expire, State.modRx_rx, PerLine.get_modify_same, hd]
  simp only [State.modRx, PerLine.modify_eq_set, hd]
  simp

/-- A stopped countdown is not lowered (R30). -/
theorem State.reach_deadline_stopped (s : State) (x : Line) (h : (s.rx.get x).deadline = .stopped) :
    s.reach (.deadline x) = { s with owed := s.owed.erase (.deadline x) } := by
  have hd : (s.rx.get x).deadline.tick = .stopped := by rw [h]; rfl
  have hr : ({ s.rx.get x with deadline := .stopped } : Receiver) = s.rx.get x := by rw [← h]
  simp only [State.reach, State.tickTo, State.expire, State.modRx_rx, PerLine.get_modify_same, hd]
  simp only [State.modRx, PerLine.modify_eq_set, hd, hr]
  simp

/-- The tick at the interval timer lowers it, and at its last millisecond expires it (R172). -/
theorem State.reach_timer (s : State) :
    s.reach .timer =
      { s with
        owed := s.owed.erase .timer
        emitter :=
          { s.emitter with
            timer := match s.emitter.timer with
              | .expired => .expired
              | .running n => if n ≤ 1 then .expired else .running (n - 1) } } := by
  simp only [State.reach, State.tickTo, State.expireInterval]
  cases h : s.emitter.timer with
  | expired => simp [Timer.tick]
  | running n =>
    by_cases hn : n ≤ 1
    · have h0 : n - 1 = 0 := by omega
      simp [Timer.tick, hn, h0]
    · have h0 : n - 1 ≠ 0 := by omega
      simp [Timer.tick, hn, h0]

@[simp] theorem State.reach_inputs (s : State) (k : TickTaker) :
    (s.reach k).pending = s.pending ∧ (s.reach k).edges = s.edges ∧ (s.reach k).ticks = s.ticks ∧
    (s.reach k).gaps = s.gaps ∧
    (s.reach k).flushes = s.flushes ∧ (s.reach k).resetHigh = s.resetHigh := by
  cases k <;> simp [State.reach, State.tickTo]

@[simp] theorem State.deliver_inputs (s : State) (k : TickTaker) :
    (s.deliver k).pending = s.pending ∧ (s.deliver k).edges = s.edges ∧ (s.deliver k).ticks = s.ticks ∧
    (s.deliver k).gaps = s.gaps ∧
    (s.deliver k).flushes = s.flushes := by
  unfold State.deliver
  split_ifs <;> simp

@[simp] theorem State.deliverAll_inputs (s : State) (ks : List TickTaker) :
    (ks.foldl State.deliver s).pending = s.pending ∧ (ks.foldl State.deliver s).edges = s.edges ∧
    (ks.foldl State.deliver s).ticks = s.ticks ∧ (ks.foldl State.deliver s).gaps = s.gaps ∧
    (ks.foldl State.deliver s).flushes = s.flushes := by
  induction ks generalizing s with
  | nil => simp
  | cons k ks ih => simp only [List.foldl_cons, ih]; simp

/-- A new tick leaves the model's own inputs but its own takers. -/
@[simp] theorem State.newTick_inputs (s : State) :
    s.newTick.pending = s.pending ∧ s.newTick.edges = s.edges ∧ s.newTick.ticks = s.ticks.tail ∧
    s.newTick.gaps = s.gaps ∧
    s.newTick.flushes = s.flushes := by
  simp [State.newTick, State.finishTick, State.issue]

@[simp] theorem State.tick_inputs (s : State) :
    s.tick.pending = s.pending ∧ s.tick.edges = s.edges ∧ s.tick.ticks = s.ticks.tail ∧ s.tick.gaps = s.gaps ∧
    s.tick.flushes = s.flushes := by
  unfold State.tick
  split_ifs <;> simp

/-- A tick command where no tick is under way. -/
theorem State.tick_of_none_owed (s : State) (h : s.quiet = true) (ho : s.owed = []) :
    s.tick = s.takers.foldl State.deliver ({ s with ticks := s.ticks.tail }).issue := by
  have hn : ¬(s.takers ≠ [] ∧ ∀ k ∈ s.takers, k ∈ s.owed) := by
    rw [ho]
    rintro ⟨h1, h2⟩
    obtain ⟨k, hk⟩ := List.exists_mem_of_ne_nil _ h1
    exact absurd (h2 k hk) (by simp)
  have hq : State.finishTick { s with ticks := s.ticks.tail } = { s with ticks := s.ticks.tail } := by
    rw [State.finishTick, show ({ s with ticks := s.ticks.tail } : State).owed = [] from ho, List.foldl_nil]
    exact State.settle_of_quiet _ h
  rw [State.tick, if_neg hn, State.newTick, hq]

end Sys2Proof.Machine
end

