-- ==== Sys2Proof/WellFormed.lean ====
section
/-! DEFINITION. Which commands are well formed. A command's operands are lines, bits and octets, whose every value is
a value of the spec. The samples of HLDx have a bound. -/

namespace Sys2Proof

/-- One selection event makes at most 192 further selections, since each follows the discard of one ticket and the
part has 192 tickets (R101, R109): HLDx is sampled at most that many times more. -/
def Instr.wellFormed : Instr → Bool
  | .fillPairEnd _ _ further => further.length ≤ 192
  | .gapPairEnd _ _ further => further.length ≤ 192
  | .hardwareReset | .resetNegated | .timebaseTick | .huntMatch _ _ | .octetInConfirm _ _ | .octetInGap _ _
  | .octetInGapSyn _ _ | .headerOctet _ _ | .headerCompletion _ _ | .textOctet _ _ | .checkOctet _ _
  | .blockCompletion _ _ | .deadlineExpiry _ | .blockSent _ | .sessionTake | .malformedRecord | .walkTruncation
  | .skippedRecord | .unknownRequestRecord | .identify | .lineSet | .lineGet | .lineRestart | .queueFlush
  | .defaultSet | .routeInsert | .routeUpdate | .routeDelete | .routeRead | .routeFind | .countersRead | .noticeSet
  | .selfSet | .flushAll | .reinit | .sessionEnd | .reinitReset | .intervalTimerExpiry | .noticeBuild
  | .badLengthRecord | .huntComparisonNoMatch _ _ => true

end Sys2Proof
end

