-- ==== Sys2Proof/Tests/Slice0.lean ====
section
/-! SUPPORT. The model's own tests: the smoke of WellFormed, small single steps, and for every statement of
Sys2Proof/Certificates/Slice0/Obligations.lean that has hypotheses a theorem `witness_<Name>` with concrete states and
operands that meet them, each clause at a boundary of its range. -/

open Sys2Proof Sys2Proof.Machine

namespace Sys2Proof.Tests

set_option Elab.async false

/-! ### WellFormed -/

theorem test_fillPairEnd_wellFormed : (Instr.fillPairEnd .a true (List.replicate 192 false)).wellFormed = true := by decide +kernel

theorem test_fillPairEnd_refused : (Instr.fillPairEnd .a true (List.replicate 193 false)).wellFormed = false := by decide +kernel

theorem test_gapPairEnd_wellFormed : (Instr.gapPairEnd .l false (List.replicate 192 true)).wellFormed = true := by decide +kernel

theorem test_gapPairEnd_refused : (Instr.gapPairEnd .l false (List.replicate 193 true)).wellFormed = false := by decide +kernel

theorem test_octet_wellFormed : (Instr.octetInGap .b 0xFF).wellFormed = true := by decide

/-! ### States of one step -/

/-- The part with one receiver replaced, that of line B. -/
def receiving (r : Receiver) : State := { State.reset with rx := State.reset.rx.set .b r }

/-- A receiver in a state at an octet boundary, no block in reception. -/
def boundary (st : RxState) : Receiver := { state := st, align := some 0, ins := st.inSync }

/-- A receiver following a block that holds nothing. -/
def sinking (st : RxState) (header : List Byte) (position : Nat) : Receiver :=
  { state := st, history := octetBits 0, align := some 0, header, position, disposition := some .sink,
    crc := some 0xFFFF, ins := true }

/-- Line B storing a block in descriptor 125. -/
def storing (st : RxState) (header : List Byte) (position : Nat) (cell : Option CellFill) (v : Descriptor) : State :=
  { State.reset with
    rx := State.reset.rx.set .b
      { state := st, history := octetBits 0, align := some 0, header, position, disposition := some .store,
        crc := some 0xFFFF, filling := some 125, cell, ins := true }
    buf :=
      { State.reset.buf with
        freeCells := (List.range 494).filter fun c => !v.chain.contains c
        freeDescs := List.range 125
        descs := State.reset.buf.descs.set 125 v } }

/-- A descriptor being filled from line B. -/
def filled (chain : List Nat) : Descriptor := { state := .filling, ingress := some .b, chain }

/-- Line B at the sixth header octet of a block to `dst`, five octets stored in cell 493. -/
def atSixth (dst kind hi : Byte) : State :=
  storing .header [dst, 0x22, kind, 7, hi] 5 (some ⟨493, 5⟩) (filled [493])

/-- Line B at the second check octet of a block whose computed check is 0x1234. -/
def atEnd (v : Descriptor) : State :=
  { storing .check [1, 0x22, 3, 7, 0, 0] 1 (some ⟨493, 6⟩) v with
    rx := State.reset.rx.set .b
      { state := .check, align := some 0, header := [1, 0x22, 3, 7, 0, 0], position := 1, disposition := some .store,
        crc := some 0x1234, heldCheck := some 0x12, filling := some 125, cell := some ⟨493, 6⟩, ins := true } }

/-- The part with one route slot filled. -/
def withSlot (s : State) (n : Nat) (v : Slot) : State :=
  { s with routes := { s.routes with slots := (List.replicate 96 .free).set n v } }

/-- The part with a slot in every place. -/
def fullTable (s : State) (v : Slot) : State := { s with routes := { s.routes with slots := List.replicate 96 v } }

/-- An entry of line B. -/
def entry (dst : Byte) (route : Route) (seqCheck : Option SeqCheck) (binds : Nat) : Entry :=
  { keyLine := .b, keyDst := dst, route, seqCheck, binds }

def toA : Route := .forward ⟨true, false, false⟩ .normal none

/-- Line A with a queue block, ticket `k` standing for descriptor 0 with an age. -/
def sending (e : Egress) (k age : Nat) (v : Descriptor) : State :=
  { State.reset with
    tx := State.reset.tx.set .a e
    buf :=
      { State.reset.buf with
        freeCells := List.range' 1 493
        freeDescs := List.range' 1 125
        freeTickets := (List.range 190).erase k
        tickets := State.reset.buf.tickets.set k ⟨.waiting, 0, .a, .normal, age⟩
        descs := State.reset.buf.descs.set 0 v } }

def queued (tickets : Nat) : Descriptor := { state := .queued, ingress := some .b, chain := [0], tickets }

/-- The part with an age limit on line A. -/
def aged (s : State) (limit : Nat) : State :=
  { s with config := s.config.set .a { s.config.get .a with ageLimit := limit } }

/-- A session for the request in descriptor 0 from line B, whose text is `text`; the reply has its first cell. -/
def walking (text : List Byte) : State :=
  { State.reset with
    buf :=
      { State.reset.buf with
        mem := ((List.range text.length).map fun i => (6 + i, text.getD i 0)).filter fun c => c.2 ≠ 0
        freeCells := List.range' 1 493
        freePart := List.range' 495 17
        freeDescs := List.range' 1 125
        descs :=
          (State.reset.buf.descs.set 0
            { state := .held, ingress := some .b, chain := [0], src := 0x22, seq := 7, len := text.length, mark := true }).set
            126 { state := .building, origin := .reply, cls := .urgent, chain := [494], egress := ⟨false, true, false⟩ } }
    engine := ⟨.executing, [], some ⟨0, 1, 0, 0, .walking⟩⟩ }

def session : Session := ⟨0, 1, 0, 0, .walking⟩

/-- A request with TAG 0x11 at the walk position. -/
def asking (code : Byte) (params : List Byte) : State := walking ([code, 0x11, loOctet params.length] ++ params)

def head (code : Byte) (plen : Nat) : RecordHead := ⟨code, 0x11, plen⟩

/-- The state a command answers. -/
def after (i : Instr) (s : State) : State :=
  match exec i s with
  | .next t => t
  | .fault _ => s
  | .refused _ => s

/-- The octets of the reply's text that an answered request has written. -/
def replied (i : Instr) (s : State) (n : Nat) : List Byte := (after i s).buf.replyText n

theorem requested_of (s : State) (ss : Session) (h : RecordHead) (code : Byte) (params : List Byte)
    (hs : (s.quiet && decide (s.unflushed = [] ∧ s.engine.session = some ss ∧ ss.outcome = .walking ∧
      s.fateOf ss = .request h params ∧ h.code = code)) = true) : s.requested ss h code params := by
  rw [Bool.and_eq_true, decide_eq_true_eq] at hs
  exact ⟨⟨hs.1, hs.2.1, hs.2.2.1, hs.2.2.2.1, hs.2.2.2.2.1⟩, hs.2.2.2.2.2⟩

/-- One filled slot leaves the keys distinct. -/
theorem keysUnique_of_one (s : State) (n : Nat) (v : Slot) (h : s.routes.slots = (List.replicate 96 .free).set n v) :
    s.KeysUnique := by
  have key : ∀ m e, s.routes.slot m = .active e → m = n := by
    intro m e hm
    by_contra hne
    rw [RouteTable.slot, h, List.getD_eq_getElem?_getD, List.getElem?_set_ne (Ne.symm hne), List.getElem?_replicate] at hm
    split at hm <;> simp at hm
  intro a b e f ha hb _ _
  rw [key a e ha, key b f hb]

/-! ### Single steps -/

theorem test_crc_of_digits : crcOf [0x31, 0x32, 0x33, 0x34, 0x35, 0x36, 0x37, 0x38, 0x39] = 0x29B1 := by decide +kernel

theorem test_hardwareReset_holds_tdx_high : (after .hardwareReset State.reset).tx.b.out = .heldHigh := by decide +kernel

theorem test_resetNegated_begins_a_fill_pair :
    (after .resetNegated (after .hardwareReset State.reset)).tx.b.out = .pair 0x96 0x69 := by decide +kernel

theorem test_timebaseTick_counts_down :
    (after .timebaseTick (receiving { boundary .header with deadline := .running 2 })).rx.b.deadline = .running 1 := by
  decide +kernel

/-- The tick that lowers a deadline to 0 is its expiry (R30). -/
theorem test_timebaseTick_expires :
    (after .timebaseTick (receiving { sinking .header [] 0 with deadline := .running 1 })).rx.b.state = .hunt := by
  decide +kernel

/-- The tick that a step left on its way to a receiver expires there at a later step (R180, R31). -/
theorem test_deadlineExpiry_takes_the_tick :
    (after (.deadlineExpiry .b)
      (after .timebaseTick
        { receiving { sinking .header [] 0 with deadline := .running 1 } with ticks := [[.timer]] })).count.rx.b.deadlineAbandons =
      1 := by
  decide +kernel

/-- SYN1 0x96 goes out least significant bit first (R179). -/
theorem test_tcEdge_presents_bits :
    ((List.range 8).map fun n =>
      ((List.range (n + 1)).foldl (fun (s : State) _ => s.tcEdge .a false []) State.reset).tx.a.tdx) =
      [false, true, true, false, true, false, false, true] := by
  decide +kernel

/-- The last bit of the pair ends it, and a pair of the same unit length begins (R107). -/
theorem test_tcEdge_ends_the_pair :
    ({ State.reset with tx := State.reset.tx.set .a { place := 15 } }.tcEdge .a true []).tx.a.place = 0 := by
  decide +kernel

theorem test_huntMatch_confirms :
    (after (.huntMatch .b true)
      (receiving { history := [false, true, true, false, true, false, false] })).rx.b.state = .confirm := by
  decide +kernel

theorem test_octetInConfirm_gains_sync : (after (.octetInConfirm .b 0x69) (receiving (boundary .confirm))).rx.b.ins = true := by
  decide +kernel

theorem test_octetInGap_begins_a_block :
    (after (.octetInGap .b 0x5A) (receiving (boundary .gap))).rx.b.filling = some 0 := by decide +kernel

theorem test_octetInGapSyn_loses_sync :
    (after (.octetInGapSyn .b 0x00) (receiving (boundary .gapSyn))).count.rx.b.syncLosses = 1 := by decide +kernel

theorem test_headerCompletion_marks_management :
    ((after (.headerCompletion .b 0) (atSixth 0xFE 0xF0 0)).buf.desc 125).mark = true := by decide +kernel

theorem test_headerCompletion_takes_the_default_route :
    ((after (.headerCompletion .b 0) (atSixth 1 3 0)).buf.desc 125).bound = .default .b := by decide +kernel

theorem test_textOctet_is_stored :
    (after (.textOctet .b 0x77) (storing .body [1, 2, 3, 4, 0, 9] 0 (some ⟨493, 6⟩) (filled [493]))).buf.mem =
      [(31558, 0x77)] := by decide +kernel

theorem test_blockCompletion_admits_a_copy :
    (after (.blockCompletion .b 0x34)
      (atEnd { filled [493] with bound := .default .b, egress := ⟨true, false, false⟩ })).tx.a.normal = [0] := by
  decide +kernel

/-- No ticket is free for the copy on line A, and one released before the copy on line L is claimed for it (R44, R97). -/
theorem test_blockCompletion_claims_a_released_ticket :
    (let s0 := atEnd { filled [493] with bound := .default .b, egress := ⟨true, false, true⟩ }
     let s := { s0 with
       gaps := [[], [.sent .b]]
       tx := State.reset.tx.set .b { state := .sending, ticket := some 7 }
       buf :=
         { s0.buf with
           freeTickets := []
           tickets := s0.buf.tickets.set 7 ⟨.sending, 0, .b, .normal, 0⟩
           descs := s0.buf.descs.set 0 { state := .queued, tickets := 1 } } }
     let t := after (.blockCompletion .b 0x34) s
     (t.count.tx.a.ticketExhausted, t.tx.l.normal)) = (1, [7]) := by
  decide +kernel

/-- The notice that ROUTE-FREED makes due at the report takes its place ahead of that block's copy (R97, R174). -/
theorem test_blockCompletion_lets_a_notice_ahead :
    (let s0 := withSlot (atEnd { filled [493] with bound := .slot 0, egress := ⟨true, false, false⟩, cls := .urgent }) 0
       (.retiring (entry 1 toA none 1))
     let s := { s0 with gaps := [[.notice]], emitter := { State.reset.emitter with enabled := true } }
     (after (.blockCompletion .b 0x34) s).tx.a.urgent) = [191, 0] := by
  decide +kernel

/-- The session of a request of line A ends before the last copy's claim: on line A the reply stands behind that block's
copy, and what the request held is back (R97, R133). -/
theorem test_blockCompletion_lets_a_reply_between :
    (let s0 := atEnd { filled [493] with bound := .default .b, egress := ⟨true, true, false⟩, cls := .urgent }
     let s := { s0 with
       gaps := [[], [.reply]]
       engine := ⟨.executing, [], some ⟨0, 2, 1, 4, .ended⟩⟩
       buf :=
         { s0.buf with
           freePart := List.range' 495 17
           descs :=
             (s0.buf.descs.set 0 { state := .held, ingress := some .a, chain := [7] }).set 126
               { state := .building, origin := .reply, cls := .urgent, chain := [494] } } }
     let t := after (.blockCompletion .b 0x34) s
     (t.tx.a.urgent, t.tx.b.urgent, t.engine, t.buf.freeDescs.getLast?, t.buf.freeCells.getLast?)) =
      ([0, 190], [1], ⟨.idle, [], none⟩, some 0, some 7) := by
  decide +kernel

theorem test_blockSent_frees_the_block :
    (after (.blockSent .a)
      (sending { state := .sending, ticket := some 189 } 189 0 (queued 1))).buf.freeDescs.getLast? = some 0 := by
  decide +kernel

theorem test_lineGet_answers_the_record :
    replied .lineGet (asking 0x03 [1]) 18 =
      [0x03, 0x11, 0x00, 14, 1, 0x96, 0x69, 1, 0, 200, 0, 0, 0, 64, 1, 0, 1, 0] := by decide +kernel

theorem test_routeInsert_answers_the_slot :
    replied .routeInsert (asking 0x07 [1, 0x40, 0, 5, 1, 1, 0x41, 64]) 5 = [0x07, 0x11, 0x00, 1, 0] := by decide +kernel

theorem test_countersRead_answers_the_levels :
    replied .countersRead (asking 0x0C [3, 0, 0]) 14 = [0x0C, 0x11, 0, 22, 3, 0, 0, 0, 1, 0xED, 0, 0, 0, 125] := by
  decide +kernel

theorem test_unknownRequest_is_answered :
    replied .unknownRequestRecord (asking 0x11 []) 4 = [0x11, 0x11, 0x01, 0] := by decide +kernel

/-- A FLUSH-ALL in a session of line B, with tickets waiting on lines A and L, a block in reception on line B whose check
is good, and a management block waiting. -/
def flushing (flushes : List (List FlushPart)) : State :=
  let s := asking 0x0F []
  { s with
    flushes
    rx := State.reset.rx.set .b
      { state := .check, align := some 0, header := [1, 0x22, 0xF0, 7, 0, 0], position := 1, disposition := some .store,
        crc := some 0x1234, heldCheck := some 0x12, filling := some 125, cell := some ⟨493, 6⟩, ins := true }
    tx := ⟨{ urgent := [5], normal := [6] }, {}, { normal := [7] }⟩
    engine := { s.engine with queue := [3] }
    buf :=
      { s.buf with
        tickets :=
          ((s.buf.tickets.set 5 ⟨.waiting, 1, .a, .urgent, 9⟩).set 6 ⟨.waiting, 2, .a, .normal, 0⟩).set 7
            ⟨.waiting, 1, .l, .normal, 0⟩
        freeTickets := [0, 1]
        freeDescs := List.range' 4 121
        freeCells := List.range' 4 489
        descs :=
          (((s.buf.descs.set 1 { queued 2 with chain := [1] }).set 2 { queued 1 with chain := [2] }).set 3
            { state := .held, ingress := some .a, chain := [3], mark := true }).set 125
            { filled [493] with mark := true } } }

theorem test_flushAll_empties_the_queues :
    (let t := after .flushAll (flushing [])
     (t.tx.a.urgent ++ t.tx.a.normal ++ t.tx.l.normal ++ t.engine.queue, t.buf.freeTickets, t.count.tx.a.flushed)) =
      ([], [0, 1, 5, 6, 7], 2) := by
  decide +kernel

/-- FLUSH-ALL first at the management queue, and then a block that completes before its receiver is restarted: it is
appended to an empty queue and survives (R92). -/
theorem test_flushAll_spares_an_offer_taken_second :
    (let t := after (.blockCompletion .b 0x34) (after .flushAll (flushing [[.management]]))
     (t.engine.queue, (after .sessionEnd t).engine.queue, (after .sessionEnd t).rx.b.state, t.unflushed.length)) =
      ([125], [125], .hunt, 6) := by
  decide +kernel

/-- The first of the SYNC-LOST events of a FLUSH-ALL makes the notice due, and the build comes before the others (R171);
where the notice waits for two, it carries two. -/
theorem test_flushAll_builds_at_the_first_event :
    (let lost := fun (awaits : List Nat) =>
       let s := { flushing [] with
         awaits
         rx := ⟨boundary .gap, boundary .gap, boundary .gap⟩
         emitter := { State.reset.emitter with enabled := true } }
       let t := (after .flushAll s).settle
       ((t.buf.desc 127).len, t.emitter.pending.total)
     (lost [], lost [2], lost [3])) = ((4, 2), (8, 1), (12, 0)) := by
  decide +kernel

/-- An event, and then the NOTICE-SET that disables, with the notice still waiting: it is never reported (R171). -/
theorem test_noticeSet_empties_out_an_event :
    (let t := after .noticeSet
       { asking 0x0D [0, 1, 0, 0, 10] with
         awaits := [2]
         emitter := { State.reset.emitter with enabled := true, inbox := [.bufferLow] } }
     (t.emitter.pending, t.emitter.inbox, (t.buf.desc 127).state, t.emitter.enabled)) = ({}, [], .free, false) := by
  decide +kernel

theorem test_decodeTableWord_spells_nothing : decodeTableWord 8 0 = none := by decide

/-! ### Witnesses: the queue, RESET and the timebase -/

theorem witness_EveryStepAnswersANextState :
    (∃ s : State, s.pending = [] ∧ s.resetHigh = true) ∧
    (∃ s : State, s.pending = [] ∧ s.quiet = true ∧ s.edges = [] ∧ s.divideCount = 3998) ∧
    (∃ s : State, s.pending = [] ∧ s.quiet = true ∧ s.edges.head? = some .refclk ∧ s.divideCount = 3999 ∧ s.owed = []) ∧
    (∃ s : State, s.pending = [] ∧ s.quiet = true ∧ s.edges = [] ∧ s.divideCount = 3999 ∧ s.owed = [.timer]) ∧
    (∃ (s : State) (x : Line), s.pending = [] ∧ s.quiet = true ∧ s.edges.head? = some (.tc x true []) ∧
      (s.tx.get x).place + 1 = 8 * (s.tx.get x).out.octets.length - 1) ∧
    ∃ (s : State) (x : Line), s.pending = [] ∧ s.quiet = true ∧ s.edges.head? = some (.tc x true []) ∧
      (s.tx.get x).place + 1 = 8 * (s.tx.get x).out.octets.length :=
  ⟨⟨{ State.reset with resetHigh := true }, rfl, rfl⟩,
    ⟨{ State.reset with divideCount := 3998 }, by decide +kernel⟩,
    ⟨{ State.reset with divideCount := 3999, edges := [.refclk] }, by decide +kernel⟩,
    ⟨{ State.reset with divideCount := 3999, owed := [.timer] }, by decide +kernel⟩,
    ⟨{ State.reset with edges := [.tc .l true []], tx := State.reset.tx.set .l { place := 14 } }, .l, by decide +kernel⟩,
    ⟨{ State.reset with edges := [.tc .l true []], tx := State.reset.tx.set .l { place := 15 } }, .l, by decide +kernel⟩⟩

/-- A session and a notice due together, a reset due, nothing due, a command that lets what is due come first, a notice
that waits for one occurrence more, and two events on their way, the second of which is taken first. -/
theorem witness_DueStepsComeFirst :
    (∃ s : State, s.resetHigh = false ∧ s.pending = [] ∧
      (s.engine.state = .idle ∧ s.engine.queue ≠ [] ∧ (s.buf.desc 126).state = .free) ∧
      s.emitter.enabled = true ∧ s.emitter.pending ≠ {} ∧ s.emitter.timer = .expired ∧
      (s.buf.desc 127).state = .free ∧ s.awaits.headD 0 = s.emitter.pending.total ∧ s.emitter.inbox ≠ []) ∧
    (∃ s : State, s.resetHigh = false ∧ s.engine.state = .reinitPending ∧ s.engine.session = none ∧
      (s.buf.desc 126).state = .free) ∧
    (∃ s : State, s.resetHigh = false ∧ s.engine.state ≠ .reinitPending ∧ s.engine.queue = [] ∧
      s.emitter.enabled = false ∧ s.emitter.inbox = []) ∧
    (∃ c : Instr, c ≠ .hardwareReset ∧ c ≠ .resetNegated ∧ c ≠ .sessionTake ∧ c ≠ .reinitReset ∧ c ≠ .noticeBuild) ∧
    (∃ s : State, s.emitter.inbox = [] ∧ s.buildable = true ∧ s.awaits.headD 0 = s.emitter.pending.total + 1) ∧
    ∃ s : State, s.buildable = false ∧ s.arrivals.headD 0 + 1 = s.emitter.inbox.length ∧
      s.emitter.inbox[s.arrivals.headD 0]? = some (.routeFreed 95) :=
  ⟨⟨{ State.reset with
        engine := ⟨.idle, [0], none⟩
        awaits := [1]
        emitter :=
          { State.reset.emitter with enabled := true, pending := { bufferLow := some 1 }, inbox := [.syncLost .l] } },
      by decide +kernel⟩,
    ⟨{ State.reset with engine := ⟨.reinitPending, [], none⟩ }, by decide +kernel⟩, ⟨State.reset, by decide +kernel⟩,
    ⟨.timebaseTick, by decide⟩,
    ⟨{ State.reset with
        awaits := [2]
        emitter := { State.reset.emitter with enabled := true, pending := { bufferLow := some 1 } } }, by decide +kernel⟩,
    ⟨{ State.reset with
        arrivals := [1]
        emitter := { State.reset.emitter with enabled := true, inbox := [.syncLost .l, .routeFreed 95] } },
      by decide +kernel⟩⟩

theorem witness_ResetHoldsAndStartsThePart :
    (∃ (c : Instr) (s : State), s.resetHigh = true ∧ c ≠ .hardwareReset ∧ c ≠ .resetNegated) ∧
    (∃ s : State, s.resetHigh = true) ∧ ∃ s : State, s.resetHigh = false :=
  ⟨⟨.huntMatch .a true, { State.reset with resetHigh := true }, rfl, by decide, by decide⟩,
    ⟨{ State.reset with resetHigh := true }, rfl⟩, ⟨State.reset, rfl⟩⟩

theorem witness_ReinitResetValues :
    (∃ s : State, s.resetHigh = false ∧
      (s.engine.state = .reinitPending ∧ s.engine.session = none ∧ (s.buf.desc 126).state = .free)) ∧
    ∃ s : State, s.resetHigh = false ∧
      ¬(s.engine.state = .reinitPending ∧ s.engine.session = none ∧ (s.buf.desc 126).state = .free) :=
  ⟨⟨{ State.reset with engine := ⟨.reinitPending, [], none⟩ }, by decide +kernel⟩, ⟨State.reset, by decide +kernel⟩⟩

/-- Deadline and interval timer at 2, at 1 and stopped, a waiting ticket of the greatest age, the same tick going on to a
block, and a new tick that the tick under way must end for. -/
theorem witness_TickAgesAndCountsDown :
    (∃ s : State, s.quiet = true ∧ s.owed = [] ∧ (∀ x n, (s.rx.get x).deadline = .running n → 2 ≤ n) ∧
      (∀ n, s.emitter.timer = .running n → 2 ≤ n) ∧ s.ticks.headD TickTaker.all = TickTaker.all ∧ s.rx.b.deadline = .running 2 ∧ s.emitter.timer = .running 2 ∧
      (s.buf.ticket 189).age = 65535) ∧
    (∃ s : State, s.quiet = true ∧ s.owed = [] ∧ s.ticks.headD TickTaker.all = [.queue .b, .timer]) ∧
    (∃ s : State, s.quiet = true ∧ s.ticks.headD TickTaker.all ≠ [] ∧ ∀ k ∈ s.ticks.headD TickTaker.all, k ∈ s.owed) ∧
    (∃ s : State, s.quiet = true ∧ s.owed ≠ [] ∧ s.ticks.headD TickTaker.all = []) ∧
    (∃ s : State, s.quiet = true ∧ s.owed ≠ [] ∧ ∃ k ∈ s.ticks.headD TickTaker.all, k ∉ s.owed) ∧
    (∃ (s : State) (k : TickTaker), k ∉ s.settle.owed) ∧
    ∀ k ∈ TickTaker.all, ∃ s : State, k ∈ s.settle.owed ∧ s.settle.rx.a.deadline = .stopped ∧
      s.settle.rx.b.deadline = .running 1 ∧ s.settle.rx.l.deadline = .running 2 ∧
      s.settle.emitter.timer = .running 1 := by
  refine ⟨⟨{ sending {} 189 65535 (queued 1) with
      rx := State.reset.rx.set .b { sinking .body [1, 2, 3, 4, 0, 9] 0 with deadline := .running 2 }
      emitter := { State.reset.emitter with timer := .running 2 } }, by decide +kernel, rfl, ?_, ?_, rfl, rfl, rfl,
      by decide +kernel⟩,
    ⟨{ State.reset with ticks := [[.queue .b, .timer]] }, by decide +kernel⟩,
    ⟨{ State.reset with owed := [.timer, .queue .l], ticks := [[.queue .l]] }, by decide +kernel⟩,
    ⟨{ State.reset with owed := [.timer], ticks := [[]] }, by decide +kernel⟩,
    ⟨{ State.reset with owed := [.timer], ticks := [[.timer, .queue .l]] }, by decide +kernel⟩,
    ⟨State.reset, .timer, by decide +kernel⟩, ?_⟩
  · intro x n h
    cases x <;> cases h
    decide
  · intro n h
    cases h
    decide
  · intro k hk
    refine ⟨{ State.reset with
      owed := TickTaker.all
      rx :=
        ⟨{}, { sinking .body [1, 2, 3, 4, 0, 9] 0 with deadline := .running 1 },
          { sinking .body [1, 2, 3, 4, 0, 9] 0 with deadline := .running 2 }⟩
      emitter := { State.reset.emitter with timer := .running 1 } }, ?_⟩
    revert k
    decide +kernel

/-! ### Witnesses: receivers -/

theorem witness_HuntComparesEachBit :
    (∃ (s : State) (x : Line) (bit : Bool), s.quiet = true ∧ (s.rx.get x).state = .hunt ∧ (s.rx.get x).align = none ∧
      ((s.rx.get x).history ++ [bit]).drop ((s.rx.get x).history.length - 7) = octetBits (s.config.get x).syn1) ∧
    ∃ (s : State) (x : Line) (bit : Bool), s.quiet = true ∧ (s.rx.get x).state = .hunt ∧ (s.rx.get x).align = none ∧
      ((s.rx.get x).history ++ [bit]).drop ((s.rx.get x).history.length - 7) ≠ octetBits (s.config.get x).syn1 :=
  ⟨⟨receiving { history := [true, false, true, true, false, true, false, false] }, .b, true, by decide +kernel⟩,
    ⟨State.reset, .l, false, by decide +kernel⟩⟩

theorem witness_OctetIsItsEightBits :
    ∃ (s : State) (x : Line) (o : Byte) (i : Instr), s.resetHigh = false ∧
      i ∈ [Instr.octetInConfirm x o, .octetInGap x o, .octetInGapSyn x o, .headerOctet x o, .headerCompletion x o,
        .textOctet x o, .checkOctet x o, .blockCompletion x o] :=
  ⟨receiving (boundary .gap), .b, 0x5A, .octetInGap .b 0x5A, by decide +kernel⟩

theorem witness_ConfirmTakesAnOctet :
    ∃ (s : State) (x : Line), s.hears x .confirm ∧ ∃ o1 o2 o3 : Byte, o1 = (s.config.get x).syn2 ∧
      (o2 ≠ (s.config.get x).syn2 ∧ o2 = (s.config.get x).syn1) ∧
      (o3 ≠ (s.config.get x).syn2 ∧ o3 ≠ (s.config.get x).syn1) :=
  ⟨receiving (boundary .confirm), .b, ⟨by decide +kernel, rfl, rfl⟩, 0x69, 0x96, 0, by decide +kernel⟩

theorem witness_GapAndGapSynTakeAnOctet :
    (∃ (s : State) (x : Line), (s.rx.get x).outside ∧ s.hears x .gap ∧
      ∃ o1 o2 : Byte, o1 = (s.config.get x).syn1 ∧ o2 ≠ (s.config.get x).syn1 ∧ o2 ≠ 0x5A) ∧
    ∃ (s : State) (x : Line), (s.rx.get x).outside ∧ s.hears x .gapSyn ∧
      ∃ o1 o2 o3 : Byte, o1 = (s.config.get x).syn2 ∧ o2 ≠ (s.config.get x).syn2 ∧ o2 = (s.config.get x).syn1 ∧
        o3 ≠ (s.config.get x).syn2 ∧ o3 ≠ (s.config.get x).syn1 :=
  ⟨⟨receiving (boundary .gap), .b, ⟨rfl, rfl, rfl, rfl, rfl, rfl⟩, ⟨by decide +kernel, rfl, rfl⟩, 0x96, 0x69,
      by decide +kernel⟩,
    ⟨receiving (boundary .gapSyn), .b, ⟨rfl, rfl, rfl, rfl, rfl, rfl⟩, ⟨by decide +kernel, rfl, rfl⟩, 0x69, 0x96, 0x5A,
      by decide +kernel⟩⟩

/-- An expiry on a line that stores a block, on one that stores nothing, one at 0, and none: no tick under way, and a
countdown that is not at its last millisecond. -/
theorem witness_DeadlineExpiryEndsTheBlock :
    (∃ (s : State) (x : Line), s.quiet = true ∧ (s.rx.get x).deadline = .running 1 ∧ TickTaker.deadline x ∈ s.owed ∧
      (s.rx.get x).filling = some 125 ∧ s.buf.descs.length = 128) ∧
    (∃ (s : State) (x : Line), s.quiet = true ∧ (s.rx.get x).deadline = .running 1 ∧ TickTaker.deadline x ∈ s.owed ∧
      (s.rx.get x).filling = none) ∧
    (∃ (s : State) (x : Line), s.quiet = true ∧ (s.rx.get x).deadline = .running 0) ∧
    (∃ (s : State) (x : Line), s.quiet = true ∧ ¬((s.rx.get x).deadline = .running 0 ∨
      ((s.rx.get x).deadline = .running 1 ∧ TickTaker.deadline x ∈ s.owed)) ∧ (s.rx.get x).deadline = .running 1) ∧
    ∃ (s : State) (x : Line), s.quiet = true ∧ ¬((s.rx.get x).deadline = .running 0 ∨
      ((s.rx.get x).deadline = .running 1 ∧ TickTaker.deadline x ∈ s.owed)) ∧ TickTaker.deadline x ∈ s.owed := by
  refine ⟨⟨{ atEnd (filled [493]) with
      owed := [.deadline .b]
      rx := State.reset.rx.set .b { (atEnd (filled [493])).rx.b with deadline := .running 1 } }, .b, by decide +kernel⟩,
    ⟨{ receiving { sinking .body [1, 2, 3, 4, 0, 9] 0 with deadline := .running 1 } with owed := [.deadline .b] }, .b,
      by decide +kernel⟩,
    ⟨receiving { sinking .body [1, 2, 3, 4, 0, 9] 0 with deadline := .running 0 }, .b, by decide +kernel⟩,
    ⟨receiving { sinking .body [1, 2, 3, 4, 0, 9] 0 with deadline := .running 1 }, .b, by decide +kernel⟩,
    ⟨{ receiving { sinking .body [1, 2, 3, 4, 0, 9] 0 with deadline := .running 2 } with owed := [.deadline .b] }, .b,
      by decide +kernel⟩⟩

theorem witness_BlkBeginsABlock :
    (∃ (s : State) (x : Line), s.hears x .gap ∧ (s.config.get x).syn1 ≠ 0x5A ∧ s.buf.freeDescs = [125] ∧
      125 < s.buf.descs.length ∧ (s.buf.desc 125).chain = [] ∧ (s.buf.desc 125).tickets = 0 ∧
      (s.buf.desc 125).bound = .none) ∧
    ∃ (s : State) (x : Line), s.hears x .gap ∧ (s.config.get x).syn1 ≠ 0x5A ∧ s.buf.freeDescs = [] :=
  ⟨⟨{ receiving (boundary .gap) with buf := { State.reset.buf with freeDescs := [125] } }, .b,
      ⟨by decide +kernel, rfl, rfl⟩, by decide, rfl, by decide +kernel⟩,
    ⟨{ receiving (boundary .gap) with buf := { State.reset.buf with freeDescs := [] } }, .b,
      ⟨by decide +kernel, rfl, rfl⟩, by decide, rfl⟩⟩

/-- Header octet 5, the last text octet, and the sixth header octet of the longest text. -/
theorem witness_SinkBlockIsFollowed :
    (∃ (s : State) (x : Line) (o : Byte), (s.rx.get x).filling = none ∧ s.fills (.headerOctet x o) x o) ∧
    (∃ (s : State) (x : Line) (o : Byte), (s.rx.get x).filling = none ∧ s.fills (.textOctet x o) x o) ∧
    ∃ (s : State) (x : Line) (o : Byte), (s.rx.get x).filling = none ∧ s.hears x .header ∧ (s.rx.get x).position = 5 ∧
      (s.rx.get x).header.length = 5 ∧ wordOf ((s.rx.get x).header.getD 4 0) o = 1020 :=
  ⟨⟨receiving (sinking .header [1, 2, 3, 4] 4), .b, 3, rfl,
      .inl ⟨rfl, ⟨by decide +kernel, rfl, rfl⟩, by decide⟩⟩,
    ⟨receiving (sinking .body [1, 2, 3, 4, 0, 9] 8), .b, 3, rfl, .inr ⟨rfl, ⟨by decide +kernel, rfl, rfl⟩⟩⟩,
    ⟨receiving (sinking .header [1, 2, 3, 4, 3] 5), .b, 0xFC, rfl, ⟨by decide +kernel, rfl, rfl⟩, rfl, rfl,
      by decide⟩⟩

theorem witness_OctetIsStoredInTheCurrentCell :
    ∃ (s : State) (i : Instr) (x : Line) (o : Byte), s.fills i x o ∧ (s.rx.get x).filling = some 125 ∧
      (s.rx.get x).cell = some ⟨493, 63⟩ ∧ s.buf.mem.wf = true :=
  ⟨storing .body [1, 2, 3, 4, 0, 99] 57 (some ⟨493, 63⟩) (filled [493]), .textOctet .b 0, .b, 0,
    .inr ⟨rfl, ⟨by decide +kernel, rfl, rfl⟩⟩, rfl, rfl, by decide⟩

/-- The first header octet with no cell held and 48 cells free, and a text octet with a full cell and one cell free. -/
theorem witness_OctetClaimsANewCell :
    (∃ (s : State) (i : Instr) (x : Line) (o : Byte) (d c : Nat) (rest : List Nat), s.fills i x o ∧
      (s.rx.get x).filling = some d ∧ d < s.buf.descs.length ∧ (∀ v, (s.rx.get x).cell = some v → 64 ≤ v.fill) ∧
      s.buf.freeCells = c :: rest ∧ c < 512 ∧ s.buf.mem.wf = true ∧ rest.length = 47) ∧
    ∃ (s : State) (i : Instr) (x : Line) (o : Byte) (d c : Nat) (rest : List Nat), s.fills i x o ∧
      (s.rx.get x).filling = some d ∧ d < s.buf.descs.length ∧ (∀ v, (s.rx.get x).cell = some v → 64 ≤ v.fill) ∧
      s.buf.freeCells = c :: rest ∧ c < 512 ∧ s.buf.mem.wf = true ∧ rest = [] := by
  refine ⟨⟨{ storing .header [] 0 none (filled []) with
        buf := { (storing .header [] 0 none (filled [])).buf with freeCells := List.range' 446 48 } },
      .headerOctet .b 1, .b, 1, 125, 446, List.range' 447 47, .inl ⟨rfl, ⟨by decide +kernel, rfl, rfl⟩, by decide⟩, rfl,
      by decide +kernel, ?_, rfl, by decide, by decide, rfl⟩,
    ⟨{ storing .body [1, 2, 3, 4, 0, 99] 58 (some ⟨0, 64⟩) (filled [0]) with
        buf := { (storing .body [1, 2, 3, 4, 0, 99] 58 (some ⟨0, 64⟩) (filled [0])).buf with freeCells := [493] } },
      .textOctet .b 1, .b, 1, 125, 493, [], .inr ⟨rfl, ⟨by decide +kernel, rfl, rfl⟩⟩, rfl,
      by decide +kernel, ?_, rfl, by decide, by decide, rfl⟩⟩
  · intro v hv
    cases hv
  · intro v hv
    cases hv
    decide

theorem witness_FailedCellClaimTurnsToSink :
    ∃ (s : State) (i : Instr) (x : Line) (o : Byte) (d : Nat), s.fills i x o ∧ s.stores x d ∧
      (∀ v, (s.rx.get x).cell = some v → 64 ≤ v.fill) ∧ s.buf.freeCells = [] := by
  refine ⟨{ storing .body [1, 2, 3, 4, 0, 99] 58 (some ⟨493, 64⟩) (filled [493]) with
      buf := { (storing .body [1, 2, 3, 4, 0, 99] 58 (some ⟨493, 64⟩) (filled [493])).buf with freeCells := [] } },
    .textOctet .b 1, .b, 1, 125, .inr ⟨rfl, ⟨by decide +kernel, rfl, rfl⟩⟩, ⟨rfl, by decide, by decide +kernel⟩, ?_, rfl⟩
  intro v hv
  cases hv
  decide

theorem witness_HeaderFaultLosesSynchronism :
    (∃ (s : State) (x : Line) (o : Byte), s.hears x .header ∧ (s.rx.get x).position = 5 ∧
      (s.rx.get x).header.length = 5 ∧ 1020 < wordOf ((s.rx.get x).header.getD 4 0) o ∧
      (∀ d, (s.rx.get x).filling = some d → ∃ c k, (s.rx.get x).cell = some ⟨c, k⟩ ∧ k < 64)) ∧
    ∃ (s : State) (x : Line) (o : Byte), s.hears x .header ∧ (s.rx.get x).position = 5 ∧
      (s.rx.get x).header.length = 5 ∧ wordOf ((s.rx.get x).header.getD 4 0) o = 1021 ∧ (s.rx.get x).filling = none :=
  ⟨⟨atSixth 1 3 0x96, .b, 0x96, ⟨by decide +kernel, rfl, rfl⟩, rfl, rfl, by decide +kernel,
      fun _ _ => ⟨493, 5, rfl, by decide⟩⟩,
    ⟨receiving (sinking .header [1, 2, 3, 4, 3] 5), .b, 0xFD, ⟨by decide +kernel, rfl, rfl⟩, rfl, rfl, by decide, rfl⟩⟩

theorem endsHeader_atSixth (dst kind hi : Byte) : (atSixth dst kind hi).endsHeader .b 125 493 5 :=
  ⟨⟨by rfl, rfl, rfl⟩, rfl, rfl, ⟨rfl, by decide, by rfl⟩, rfl, by decide, by decide, by rfl⟩

/-- Management on a permitted line, with the longest text; management on another line; any other kind. -/
theorem witness_BlocksForTheOwnStationAddress :
    (∃ (s : State) (x : Line) (o dst src kind seq hi : Byte) (d c k : Nat), s.endsHeader x d c k ∧
      (s.rx.get x).header = [dst, src, kind, seq, hi] ∧ wordOf hi o = 1020 ∧ dst = s.self ∧ kind = 0xF0 ∧
      (s.config.get x).permitted = true) ∧
    (∃ (s : State) (x : Line) (o dst src kind seq hi : Byte) (d c k : Nat), s.endsHeader x d c k ∧
      (s.rx.get x).header = [dst, src, kind, seq, hi] ∧ wordOf hi o ≤ 1020 ∧ dst = s.self ∧ kind = 0xF0 ∧
      (s.config.get x).permitted = false) ∧
    ∃ (s : State) (x : Line) (o dst src kind seq hi : Byte) (d c k : Nat), s.endsHeader x d c k ∧
      (s.rx.get x).header = [dst, src, kind, seq, hi] ∧ wordOf hi o ≤ 1020 ∧ dst = s.self ∧ kind ≠ 0xF0 :=
  ⟨⟨atSixth 0xFE 0xF0 3, .b, 0xFC, 0xFE, 0x22, 0xF0, 7, 3, 125, 493, 5, endsHeader_atSixth _ _ _, rfl, by decide, rfl, rfl,
      rfl⟩,
    ⟨{ atSixth 0xFE 0xF0 0 with config := State.reset.config.set .b { permitted := false } }, .b, 0, 0xFE, 0x22, 0xF0, 7, 0,
      125, 493, 5, endsHeader_atSixth 0xFE 0xF0 0, rfl, by decide, rfl, rfl, rfl⟩,
    ⟨atSixth 0xFE 0xF1 0, .b, 0, 0xFE, 0x22, 0xF1, 7, 0, 125, 493, 5, endsHeader_atSixth _ _ _, rfl, by decide, rfl,
      by decide⟩⟩

theorem witness_LookupMatchesAnActiveSlot :
    ∃ (s : State) (x : Line) (o dst src kind seq hi : Byte) (d c k n : Nat) (e : Entry) (egress : LineSet) (cls : QClass)
      (rewrite : Option Byte), s.endsHeader x d c k ∧ s.KeysUnique ∧ (s.rx.get x).header = [dst, src, kind, seq, hi] ∧
      wordOf hi o ≤ 1020 ∧ dst ≠ s.self ∧ s.routes.slot n = .active e ∧ e.keyLine = x ∧ e.keyDst = dst ∧
      e.route = .forward egress cls rewrite :=
  ⟨withSlot (atSixth 1 3 3) 95 (.active (entry 1 toA none 0)), .b, 0xFC, 1, 0x22, 3, 7, 3, 125, 493, 5, 95,
    entry 1 toA none 0, ⟨true, false, false⟩, .normal, none, endsHeader_atSixth 1 3 3, keysUnique_of_one _ 95 _ rfl, rfl,
    by decide, by decide, by decide +kernel, rfl, rfl, rfl⟩

theorem witness_LookupMissTakesTheDefaultRoute :
    ∃ (s : State) (x : Line) (o dst src kind seq hi : Byte) (d c k : Nat) (egress : LineSet) (cls : QClass),
      s.endsHeader x d c k ∧ (s.rx.get x).header = [dst, src, kind, seq, hi] ∧ wordOf hi o ≤ 1020 ∧ dst ≠ s.self ∧
      (∀ v ∈ s.routes.slots, v.matches x dst = false) ∧ s.routes.defaults.get x = .forward egress cls :=
  ⟨withSlot (atSixth 1 3 3) 0 (.active (entry 2 toA none 0)), .b, 0xFC, 1, 0x22, 3, 7, 3, 125, 493, 5,
    ⟨true, false, false⟩, .normal, endsHeader_atSixth 1 3 3, rfl, by decide, by decide, by decide +kernel, rfl⟩

theorem witness_RouteDiscardsTheBlock :
    (∃ (s : State) (x : Line) (o dst src kind seq hi : Byte) (d c k : Nat), s.endsHeader x d c k ∧ s.KeysUnique ∧
      (s.rx.get x).header = [dst, src, kind, seq, hi] ∧ wordOf hi o ≤ 1020 ∧ dst ≠ s.self ∧
      ∃ n e, s.routes.slot n = .active e ∧ e.keyLine = x ∧ e.keyDst = dst ∧ e.route = .discard) ∧
    ∃ (s : State) (x : Line) (o dst src kind seq hi : Byte) (d c k : Nat), s.endsHeader x d c k ∧ s.KeysUnique ∧
      (s.rx.get x).header = [dst, src, kind, seq, hi] ∧ wordOf hi o ≤ 1020 ∧ dst ≠ s.self ∧
      (∀ v ∈ s.routes.slots, v.matches x dst = false) ∧ s.routes.defaults.get x = .discard :=
  ⟨⟨withSlot (atSixth 1 3 0) 95 (.active (entry 1 .discard none 0)), .b, 0, 1, 0x22, 3, 7, 0, 125, 493, 5,
      endsHeader_atSixth 1 3 0, keysUnique_of_one _ 95 _ rfl, rfl, by decide, by decide, 95, entry 1 .discard none 0,
      by decide +kernel, rfl, rfl, rfl⟩,
    ⟨{ withSlot (atSixth 1 3 0) 0 .free with
        routes := { State.reset.routes with defaults := State.reset.routes.defaults.set .b .discard } },
      .b, 0, 1, 0x22, 3, 7, 0, 125, 493, 5, endsHeader_atSixth 1 3 0, keysUnique_of_one _ 0 .free rfl, rfl, by decide,
      by decide, by decide +kernel, rfl⟩⟩

/-! ### Witnesses: block completion -/

theorem endsBlock_atEnd (v : Descriptor) (o : Byte) :
    (atEnd v).endsBlock .b o (decide ((0x1234 : Nat) = 0x12 * 256 + o.toNat)) :=
  ⟨⟨by rfl, rfl, rfl⟩, rfl, 0x1234, 0x12, rfl, rfl, decide_eq_true_iff⟩

theorem stores_atEnd (v : Descriptor) : (atEnd v).stores .b 125 := ⟨rfl, by decide, by rfl⟩

theorem witness_BadCheckAbandonsTheBlock : ∃ (s : State) (x : Line) (o : Byte), s.endsBlock x o false :=
  ⟨atEnd (filled [493]), .b, 0x35, endsBlock_atEnd _ 0x35⟩

theorem witness_CheckOctetsAndGoodSinkBlocks :
    (∃ (s : State) (x : Line), s.hears x .check ∧ (s.rx.get x).position = 0) ∧
    ∃ (s : State) (x : Line) (o : Byte), s.endsBlock x o true ∧ (s.rx.get x).filling = none :=
  ⟨⟨receiving (sinking .check [1, 2, 3, 4, 0, 0] 0), .b, ⟨by decide +kernel, rfl, rfl⟩, rfl⟩,
    ⟨receiving { sinking .check [1, 2, 3, 4, 0, 0] 1 with heldCheck := some 0xFF }, .b, 0xFF,
      ⟨⟨by decide +kernel, rfl, rfl⟩, rfl, 0xFFFF, 0xFF, rfl, rfl, by decide⟩, rfl⟩⟩

theorem witness_ManagementQueueOffer :
    (∃ (s : State) (x : Line) (o : Byte) (d : Nat), s.endsBlock x o true ∧ s.stores x d ∧ (s.buf.desc d).mark = true ∧
      s.engine.queue.length = 3) ∧
    ∃ (s : State) (x : Line) (o : Byte) (d : Nat), s.endsBlock x o true ∧ s.stores x d ∧ (s.buf.desc d).mark = true ∧
      s.engine.queue.length = 4 :=
  ⟨⟨{ atEnd { filled [493] with mark := true } with engine := ⟨.executing, [1, 2, 3], some session⟩ }, .b, 0x34, 125,
      ⟨⟨by decide +kernel, rfl, rfl⟩, rfl, 0x1234, 0x12, rfl, rfl, by decide⟩, stores_atEnd { filled [493] with mark := true },
      by decide +kernel, rfl⟩,
    ⟨{ atEnd { filled [493] with mark := true } with engine := ⟨.executing, [1, 2, 3, 4], some session⟩ }, .b, 0x34, 125,
      ⟨⟨by decide +kernel, rfl, rfl⟩, rfl, 0x1234, 0x12, rfl, rfl, by decide⟩, stores_atEnd { filled [493] with mark := true },
      by decide +kernel, rfl⟩⟩

/-- The block ended is bound to slot 95, whose sequence check stands so. -/
def checked (seq : Byte) (c : SeqCheck) : State :=
  withSlot (atEnd { filled [493] with seq, bound := .slot 95 }) 95 (.active (entry 1 toA (some c) 1))

theorem checked_meets (seq : Byte) (c : SeqCheck) :
    (checked seq c).endsBlock .b 0x34 true ∧ (checked seq c).stores .b 125 ∧
      ((checked seq c).buf.desc 125).mark = false ∧ ((checked seq c).buf.desc 125).bound = .slot 95 ∧
      ((checked seq c).buf.desc 125).seq = seq ∧
      (checked seq c).routes.slot 95 = .active (entry 1 toA (some c) 1) :=
  ⟨⟨⟨by rfl, rfl, rfl⟩, rfl, 0x1234, 0x12, rfl, rfl, by decide⟩, ⟨rfl, by decide, by rfl⟩, by rfl, by rfl, by rfl, by rfl⟩

/-- The four cases: unprimed, in order, the farthest duplicate of a window of 64, and the farthest gap next to it. -/
theorem witness_SequenceCheckCases :
    ∀ c ∈ [(⟨0x00, ⟨64, 0, false⟩⟩ : Byte × SeqCheck), ⟨0xFF, ⟨1, 0xFF, true⟩⟩, ⟨0xC0, ⟨64, 0, true⟩⟩,
        ⟨0xBF, ⟨64, 0, true⟩⟩],
      ∃ (s : State) (x : Line) (o : Byte) (d n : Nat) (e : Entry), s.endsBlock x o true ∧ s.stores x d ∧
        (s.buf.desc d).mark = false ∧ (s.buf.desc d).bound = .slot n ∧ s.routes.slot n = .active e ∧
        e.seqCheck = some c.2 ∧ (s.buf.desc d).seq = c.1 :=
  fun c _ => ⟨checked c.1 c.2, .b, 0x34, 125, 95, entry 1 toA (some c.2) 1, (checked_meets c.1 c.2).1,
    (checked_meets c.1 c.2).2.1, (checked_meets c.1 c.2).2.2.1, (checked_meets c.1 c.2).2.2.2.1,
    (checked_meets c.1 c.2).2.2.2.2.2, rfl, (checked_meets c.1 c.2).2.2.2.2.1⟩

theorem witness_AcceptedBlockIsAdmitted :
    (∃ (s : State) (x : Line) (o : Byte) (d : Nat), s.endsBlock x o true ∧ s.stores x d ∧
      (s.buf.desc d).mark = false ∧ ∃ y, (s.buf.desc d).bound = .default y) ∧
    (∃ (s : State) (x : Line) (o : Byte) (d : Nat), s.endsBlock x o true ∧ s.stores x d ∧
      (s.buf.desc d).mark = false ∧
      ∃ n e, (s.buf.desc d).bound = .slot n ∧ s.routes.slot n = .active e ∧ e.seqCheck = none) ∧
    (∀ c ∈ [(⟨0x00, ⟨64, 0, false⟩⟩ : Byte × SeqCheck), ⟨0xFF, ⟨1, 0xFF, true⟩⟩, ⟨0xBF, ⟨64, 0, true⟩⟩],
      ∃ (s : State) (x : Line) (o : Byte) (d : Nat), s.endsBlock x o true ∧ s.stores x d ∧
        (s.buf.desc d).mark = false ∧
        ∃ n e, (s.buf.desc d).bound = .slot n ∧ s.routes.slot n = .active e ∧ e.seqCheck = some c.2 ∧
          (s.buf.desc d).seq = c.1) ∧
    ∀ k ∈ [1, 2], ∃ (s : State) (x : Line) (o : Byte) (d : Nat), s.endsBlock x o true ∧ s.stores x d ∧
      (s.buf.desc d).mark = false ∧
      ∃ n e, (s.buf.desc d).bound = .slot n ∧ s.routes.slot n = .retiring e ∧ e.binds = k :=
  ⟨⟨atEnd { filled [493] with bound := .default .b }, .b, 0x34, 125, endsBlock_atEnd _ 0x34, stores_atEnd _,
      by decide +kernel, .b, by decide +kernel⟩,
    ⟨withSlot (atEnd { filled [493] with bound := .slot 95 }) 95 (.active (entry 1 toA none 1)), .b, 0x34, 125,
      endsBlock_atEnd { filled [493] with bound := .slot 95 } 0x34, stores_atEnd { filled [493] with bound := .slot 95 },
      by decide +kernel, 95, entry 1 toA none 1, by decide +kernel, by decide +kernel, rfl⟩,
    fun c _ => ⟨checked c.1 c.2, .b, 0x34, 125, (checked_meets c.1 c.2).1, (checked_meets c.1 c.2).2.1,
      (checked_meets c.1 c.2).2.2.1, 95, entry 1 toA (some c.2) 1, (checked_meets c.1 c.2).2.2.2.1,
      (checked_meets c.1 c.2).2.2.2.2.2, rfl, (checked_meets c.1 c.2).2.2.2.2.1⟩,
    fun k _ => ⟨withSlot (atEnd { filled [493] with bound := .slot 0 }) 0 (.retiring (entry 1 toA none k)), .b, 0x34, 125,
      endsBlock_atEnd { filled [493] with bound := .slot 0 } 0x34, stores_atEnd { filled [493] with bound := .slot 0 },
      by rfl, 0, entry 1 toA none k, by rfl, by rfl, rfl⟩⟩

/-- The NORMAL queue of line A, its depth limit 17, with a block of 17 cells to be admitted: beside an empty queue it
just fits, beside a ticket of one cell it does not. -/
def admitting (waits : List Nat) : State :=
  { sending { normal := waits } 0 0 { queued 1 with chain := [0] } with
    config := State.reset.config.set .a { normalLimit := 17 }
    buf :=
      { (sending {} 0 0 (queued 1)).buf with
        descs := (sending {} 0 0 (queued 1)).buf.descs.set 1 { filled (List.range' 1 17) with egress := ⟨true, false, false⟩ } } }

theorem witness_CopiesAreAdmittedOrDropped :
    (∃ s : State, s.quiet = true ∧ s.unflushed = [] ∧ s.engine.session = some ⟨0, 1, 0, 0, .ended⟩) ∧
    (∃ s : State, s.engine.session = none) ∧ (∃ s : State, s.unflushed ≠ []) ∧ (∃ s : State, s.buf.freeTickets = []) ∧
    (∃ (s : State) (d : Nat) (x : Line) (k : Nat) (rest : List Nat), s.buf.freeTickets = k :: rest ∧
      (s.buf.desc d).cls = .normal ∧
      (((s.tx.get x).normal.map fun k =>
        if k < 190 then (s.buf.desc (s.buf.ticket k).desc).chain.length else 0).sum) + (s.buf.desc d).chain.length =
        (s.config.get x).normalLimit + 1 ∧ (s.buf.ticket k).state = .free) ∧
    ∃ (s : State) (d : Nat) (x : Line) (k : Nat) (rest : List Nat), s.buf.freeTickets = k :: rest ∧
      (s.buf.desc d).cls = .normal ∧
      (((s.tx.get x).normal.map fun k =>
        if k < 190 then (s.buf.desc (s.buf.ticket k).desc).chain.length else 0).sum) + (s.buf.desc d).chain.length =
        (s.config.get x).normalLimit :=
  ⟨⟨{ State.reset with engine := ⟨.executing, [], some ⟨0, 1, 0, 0, .ended⟩⟩ }, by decide +kernel, rfl, rfl⟩,
    ⟨State.reset, rfl⟩, ⟨{ State.reset with unflushed := FlushPart.all }, by decide⟩,
    ⟨{ State.reset with buf := { State.reset.buf with freeTickets := [] } }, rfl⟩,
    ⟨admitting [0], 1, .a, 1, List.range' 2 188, by decide +kernel⟩,
    ⟨admitting [], 1, .a, 1, List.range' 2 188, by decide +kernel⟩⟩

/-- A block in transmission and a session that end between two claims, and counters at their last value before the greatest. -/
theorem witness_EveryCopyIsCountedOnce :
    ∃ (s : State) (d : Nat), d < s.buf.descs.length ∧
      (∀ x, (s.count.tx.get x).ticketExhausted < 4294967295 ∧ (s.count.tx.get x).queueFull < 4294967295) ∧
      190 ∉ s.buf.freeTickets ∧ 191 ∉ s.buf.freeTickets ∧ d < 126 ∧
      (s.count.tx.get .a).queueFull = 4294967294 ∧ s.gaps = [[.sent .b, .notice, .reply]] ∧
      (s.tx.get .b).ticket = some 189 ∧ (s.buf.desc d).egress = ⟨true, false, true⟩ ∧
      (∀ x k, (s.tx.get x).ticket = some k →
        (s.buf.ticket k).desc ≠ d ∧ k ∉ s.buf.freeTickets ∧ ∀ y, y ≠ x → (s.tx.get y).ticket ≠ some k) ∧
      s.engine.session = some ⟨2, 1, 0, 0, .ended⟩ ∧ ∀ ss, s.engine.session = some ss → ss.request ≠ d := by
  refine ⟨{ admitting [0] with
      gaps := [[.sent .b, .notice, .reply]]
      engine := ⟨.executing, [], some ⟨2, 1, 0, 0, .ended⟩⟩
      tx := (admitting [0]).tx.set .b { state := .sending, ticket := some 189 }
      buf :=
        { (admitting [0]).buf with
          freeTickets := List.range' 1 188
          descs := (admitting [0]).buf.descs.modify 1 fun v => { v with egress := ⟨true, false, true⟩ } }
      count := { State.reset.count with tx := State.reset.count.tx.set .a { queueFull := 4294967294 } } }, 1,
    by decide +kernel, ?_, by decide +kernel, by decide +kernel, by decide, rfl, rfl, rfl, by decide +kernel, ?_, rfl, ?_⟩
  · intro x
    cases x <;> decide
  · intro x k h
    cases x <;> cases h
    exact ⟨by decide +kernel, by decide +kernel, fun y hy => by cases y <;> first | exact absurd rfl hy | (intro h; cases h)⟩
  · intro ss h
    cases h
    decide

/-! ### Witnesses: transmitters -/

theorem selects_fill (s : State) (x : Line) (hold : Bool) (further : List Bool)
    (h : (s.quiet && decide ((s.tx.get x).state = .fill)) = true) :
    s.selects (.fillPairEnd x hold further) x hold further := by
  rw [Bool.and_eq_true, decide_eq_true_eq] at h
  exact ⟨h.1, .inl ⟨rfl, h.2⟩⟩

theorem selects_gap (s : State) (x : Line) (hold : Bool) (further : List Bool)
    (h : (s.quiet && decide ((s.tx.get x).state = .gap ∧ (s.tx.get x).gapLeft ≤ 1)) = true) :
    s.selects (.gapPairEnd x hold further) x hold further := by
  rw [Bool.and_eq_true, decide_eq_true_eq] at h
  exact ⟨h.1, .inr ⟨rfl, h.2.1, h.2.2⟩⟩

/-- A fill pair under hold, the last gap pair with both queues empty, a gap pair that is not the last, and the ends of
pairs that no state sends. -/
theorem witness_PairsAreSentWhileNothingIsTaken :
    (∃ (s : State) (x : Line) (hold : Bool) (further : List Bool) (i : Instr), s.selects i x hold further ∧ hold = true) ∧
    (∃ (s : State) (x : Line) (hold : Bool) (further : List Bool) (i : Instr), s.selects i x hold further ∧
      hold = false ∧ (s.tx.get x).urgent = [] ∧ (s.tx.get x).normal = []) ∧
    (∃ (s : State) (x : Line), s.quiet = true ∧ (s.tx.get x).state = .gap ∧ (s.tx.get x).gapLeft = 2) ∧
    (∃ (s : State) (x : Line), s.quiet = true ∧ (s.tx.get x).state ≠ .gap) ∧
    ∃ (s : State) (x : Line), s.quiet = true ∧ (s.tx.get x).state ≠ .fill :=
  ⟨⟨sending { urgent := [0] } 0 0 (queued 1), .a, true, [], .fillPairEnd .a true [],
      selects_fill _ _ _ _ (by decide +kernel), rfl⟩,
    ⟨sending { state := .gap, gapLeft := 1 } 0 0 (queued 0), .a, false, [], .gapPairEnd .a false [],
      selects_gap _ _ _ _ (by decide +kernel), rfl, rfl, rfl⟩,
    ⟨sending { state := .gap, gapLeft := 2 } 0 0 (queued 0), .a, by decide +kernel⟩,
    ⟨State.reset, .a, by decide +kernel⟩,
    ⟨sending { state := .gap, gapLeft := 2 } 0 0 (queued 0), .a, by decide +kernel⟩⟩

/-- An URGENT head at a run of 7, a NORMAL head at a run of 8, each with the other queue non-empty; and each alone. -/
theorem witness_SelectionTakesAHead :
    (∃ (s : State) (i : Instr) (x : Line) (further : List Bool) (k : Nat), s.selects i x false further ∧
      (s.tx.get x).heads .urgent k 8 ∧ (s.config.get x).ageLimit = 0) ∧
    (∃ (s : State) (i : Instr) (x : Line) (further : List Bool) (k : Nat), s.selects i x false further ∧
      (s.tx.get x).heads .normal k 0 ∧ (s.tx.get x).urgent ≠ [] ∧
      (s.buf.ticket k).age = (s.config.get x).ageLimit) ∧
    (∃ (s : State) (i : Instr) (x : Line) (further : List Bool) (k : Nat), s.selects i x false further ∧
      (s.tx.get x).heads .urgent k 1 ∧ (s.tx.get x).normal = [] ∧ (s.config.get x).ageLimit = 0) ∧
    ∃ (s : State) (i : Instr) (x : Line) (further : List Bool) (k : Nat), s.selects i x false further ∧
      (s.tx.get x).heads .normal k 0 ∧ (s.tx.get x).urgent = [] ∧ (s.config.get x).ageLimit = 0 :=
  ⟨⟨sending { urgent := [0], normal := [1], run := 7 } 0 65535 (queued 1), .fillPairEnd .a false [], .a, [], 0,
      selects_fill _ _ _ _ (by decide +kernel), .inl ⟨rfl, ⟨[], rfl⟩, .inr ⟨by decide, by decide, rfl⟩⟩, rfl⟩,
    ⟨aged (sending { urgent := [1], normal := [0], run := 8 } 0 30000 (queued 1)) 30000, .fillPairEnd .a false [], .a, [], 0,
      selects_fill _ _ _ _ (by decide +kernel), .inr ⟨rfl, ⟨[], rfl⟩, .inr (by decide), rfl⟩, by decide, by decide +kernel⟩,
    ⟨sending { urgent := [191], state := .gap, gapLeft := 1 } 191 0 (queued 1), .gapPairEnd .a false [], .a, [], 191,
      selects_gap _ _ _ _ (by decide +kernel), .inl ⟨rfl, ⟨[], rfl⟩, .inl ⟨rfl, rfl⟩⟩, rfl, rfl⟩,
    ⟨sending { normal := [189], run := 3 } 189 0 (queued 1), .fillPairEnd .a false [], .a, [], 189,
      selects_fill _ _ _ _ (by decide +kernel), .inr ⟨rfl, ⟨[], rfl⟩, .inl rfl, rfl⟩, rfl, rfl⟩⟩

theorem witness_StaleHeadIsDropped :
    (∃ (s : State) (i : Instr) (x : Line) (further : List Bool) (c : QClass) (k run : Nat), s.selects i x false further ∧
      (s.tx.get x).heads c k run ∧ (s.config.get x).ageLimit ≠ 0 ∧
      (s.buf.ticket k).age = (s.config.get x).ageLimit + 1 ∧ k = 189 ∧ k < s.buf.tickets.length) ∧
    ∃ (s : State) (i : Instr) (x : Line) (further : List Bool) (c : QClass) (k run : Nat), s.selects i x false further ∧
      (s.tx.get x).heads c k run ∧ (s.config.get x).ageLimit ≠ 0 ∧
      (s.config.get x).ageLimit < (s.buf.ticket k).age ∧ k = 190 ∧ k < s.buf.tickets.length :=
  ⟨⟨aged (sending { normal := [189, 0] } 189 2 (queued 1)) 1, .fillPairEnd .a false [true], .a, [true], .normal, 189, 0,
      selects_fill _ _ _ _ (by decide +kernel), .inr ⟨rfl, ⟨[0], rfl⟩, .inl rfl, rfl⟩, by decide, by decide +kernel, rfl,
      by decide +kernel⟩,
    ⟨aged (sending { urgent := [190] } 190 65535 (queued 1)) 30000, .fillPairEnd .a false [], .a, [], .urgent, 190, 1,
      selects_fill _ _ _ _ (by decide +kernel), .inl ⟨rfl, ⟨[], rfl⟩, .inl ⟨rfl, rfl⟩⟩, by decide, by decide +kernel, rfl,
      by decide +kernel⟩⟩

/-- A stale head is dropped and the head behind it sent, in one event. -/
theorem witness_NoStaleTicketIsSent :
    ∃ (s t : State) (i : Instr) (x : Line) (hold : Bool) (further : List Bool) (k : Nat), s.selects i x hold further ∧
      exec i s = .next t ∧ (t.tx.get x).state = .sending ∧ (t.tx.get x).ticket = some k := by
  refine ⟨aged (sending { urgent := [189, 0] } 189 2 (queued 1)) 1, _, .fillPairEnd .a false [], .a, false, [], 0,
    selects_fill _ _ _ _ (by decide +kernel), rfl, ?_, ?_⟩ <;> decide +kernel

/-- The last ticket of a received block and of the notice, and one of two tickets. -/
theorem witness_BlockSentReleasesItsTicket :
    (∃ (s : State) (x : Line) (k d : Nat), s.quiet = true ∧ (s.tx.get x).state = .sending ∧
      (s.tx.get x).ticket = some k ∧ k = 189 ∧ k < s.buf.tickets.length ∧ (s.buf.ticket k).desc = d ∧
      s.buf.descs.length = 128 ∧ d < 126 ∧ (s.buf.desc d).state = .queued ∧ (s.buf.desc d).tickets = 1) ∧
    (∃ (s : State) (x : Line) (k d : Nat), s.quiet = true ∧ (s.tx.get x).state = .sending ∧
      (s.tx.get x).ticket = some k ∧ k < s.buf.tickets.length ∧ (s.buf.ticket k).desc = d ∧
      s.buf.descs.length = 128 ∧ d < 128 ∧ (s.buf.desc d).state = .queued ∧ (s.buf.desc d).tickets = 2) ∧
    ∃ (s : State) (x : Line) (k d : Nat), s.quiet = true ∧ (s.tx.get x).state = .sending ∧
      (s.tx.get x).ticket = some k ∧ k = 191 ∧ k < s.buf.tickets.length ∧ (s.buf.ticket k).desc = d ∧
      s.buf.descs.length = 128 ∧ d = 127 ∧ (s.buf.desc d).state = .queued ∧ (s.buf.desc d).tickets = 1 := by
  refine ⟨⟨sending { state := .sending, ticket := some 189 } 189 0 (queued 1), .a, 189, 0, by decide +kernel⟩,
    ⟨sending { state := .sending, ticket := some 0 } 0 0 (queued 2), .a, 0, 0, by decide +kernel⟩,
    ⟨{ State.reset with
        tx := State.reset.tx.set .l { state := .sending, ticket := some 191 }
        buf :=
          { State.reset.buf with
            freePart := List.range' 494 17
            descs := State.reset.buf.descs.set 127 { state := .queued, origin := .notice, chain := [511], tickets := 1 } } },
      .l, 191, 127, by decide +kernel⟩⟩

/-! ### Witnesses: the engine -/

theorem witness_SessionIsTaken :
    ∃ (s : State) (d c : Nat) (rest cells : List Nat) (x : Line), s.resetHigh = false ∧ s.engine.state = .idle ∧
      (s.buf.desc 126).state = .free ∧ s.engine.queue = d :: rest ∧ s.buf.freePart = c :: cells ∧
      (s.buf.desc d).ingress = some x ∧ 126 < s.buf.descs.length ∧ (s.buf.desc 126).chain = [] ∧
      (s.buf.desc 126).tickets = 0 ∧ (s.buf.desc 126).bound = .none :=
  ⟨{ State.reset with
      buf := { State.reset.buf with descs := State.reset.buf.descs.set 125 { state := .held, ingress := some .l } }
      engine := ⟨.idle, [125], none⟩ },
    125, 494, [], List.range' 495 17, .l, by decide +kernel⟩

/-- The walk at the last octet of its text. -/
theorem witness_RecordFateByTheSteps :
    ∃ (s : State) (ss : Session), ss.position = (s.buf.desc ss.request).len :=
  ⟨asking 0x01 [], ⟨0, 3, 0, 0, .walking⟩, by decide +kernel⟩

/-- The state of a reply with `n` octets of text written, in its first cells. -/
def replying (s : State) (n : Nat) : State :=
  { s with
    buf :=
      { s.buf with
        freePart := List.range' (494 + (6 + n + 63) / 64) (18 - (6 + n + 63) / 64)
        descs := s.buf.descs.modify 126 fun v => { v with chain := List.range' 494 ((6 + n + 63) / 64) } } }

/-- The longest result record that the room check lets be written, and the longest result data at the start. -/
theorem witness_AnswerWritesAResultRecord :
    (∃ (s : State) (ss : Session) (h : RecordHead) (data : List Byte), s.engine.session = some ss ∧ h.plen = 0 ∧
      data.length = 54 ∧ s.buf.replyReady ss.replyLen (4 + data.length)) ∧
    ∃ (s : State) (ss : Session) (data : List Byte), s.engine.session = some ss ∧
      data.length = 10 ∧ ss.replyLen = 360 ∧ s.buf.replyReady ss.replyLen (4 + data.length) :=
  ⟨⟨asking 0x01 [], session, head 0x01 0, List.replicate 54 0, rfl, rfl, rfl,
      ⟨by decide +kernel, by decide +kernel, by decide +kernel, by decide +kernel, by decide +kernel, by decide +kernel⟩⟩,
    ⟨{ replying (asking 0x01 []) 360 with engine := ⟨.executing, [], some { session with replyLen := 360 }⟩ },
      { session with replyLen := 360 }, List.replicate 10 0, rfl, rfl, rfl,
      ⟨by decide +kernel, by decide +kernel, by decide +kernel, by decide +kernel, by decide +kernel, by decide +kernel⟩⟩⟩

/-- SKIPPED, UNKNOWN-REQUEST, BAD-LENGTH, a seventeenth result, a reply without room, and records of 1, 2 and more octets
that run past the text. -/
theorem witness_RecordsThatAreNotCarriedOut :
    (∃ (s : State) (ss : Session) (h : RecordHead), s.walks ss (.skipped h)) ∧
    (∃ (s : State) (ss : Session) (h : RecordHead), s.walks ss (.unknown h)) ∧
    (∃ (s : State) (ss : Session) (h : RecordHead), s.walks ss (.badLength h)) ∧
    (∃ (s : State) (ss : Session), s.walks ss .truncated ∧ ss.results = 16) ∧
    (∃ (s : State) (ss : Session), s.walks ss .truncated ∧ ss.replyLen = 361) ∧
    (∃ (s : State) (ss : Session) (code : Byte), s.walks ss (.malformed code 0) ∧ s.buf.replyReady ss.replyLen 4) ∧
    (∃ (s : State) (ss : Session) (code tag : Byte), s.walks ss (.malformed code tag) ∧ tag ≠ 0 ∧
      s.buf.replyReady ss.replyLen 4) := by
  refine ⟨⟨{ asking 0x01 [] with engine := ⟨.reinitPending, [], some session⟩ }, session, head 0x01 0,
      by decide +kernel, rfl, rfl, rfl, by decide +kernel⟩,
    ⟨asking 0x11 [], session, head 0x11 0, by decide +kernel, rfl, rfl, rfl, by decide +kernel⟩,
    ⟨asking 0x04 [], session, head 0x04 0, by decide +kernel, rfl, rfl, rfl, by decide +kernel⟩,
    ⟨{ asking 0x01 [] with engine := ⟨.executing, [], some { session with results := 16 }⟩ },
      { session with results := 16 }, ⟨by decide +kernel, rfl, rfl, rfl, by decide +kernel⟩, rfl⟩,
    ⟨{ asking 0x01 [] with engine := ⟨.executing, [], some { session with replyLen := 361 }⟩ },
      { session with replyLen := 361 }, ⟨by decide +kernel, rfl, rfl, rfl, by decide +kernel⟩, rfl⟩,
    ⟨walking [0x01], session, 0x01, ⟨by decide +kernel, rfl, rfl, rfl, by decide +kernel⟩,
      ⟨by decide +kernel, by decide +kernel, by decide +kernel, by decide +kernel, by decide +kernel, by decide +kernel⟩⟩,
    ⟨walking [0x04, 0x11, 2, 0], session, 0x04, 0x11, ⟨by decide +kernel, rfl, rfl, rfl, by decide +kernel⟩, by decide,
      ⟨by decide +kernel, by decide +kernel, by decide +kernel, by decide +kernel, by decide +kernel, by decide +kernel⟩⟩⟩

/-- A walk that ended with the reply full, and one that was truncated, with a notice that its freed request makes due let
ahead of the reply. -/
theorem witness_SessionEndQueuesTheReply :
    (∃ (s : State) (ss : Session) (x : Line), s.quiet = true ∧ s.unflushed = [] ∧ s.engine.session = some ss ∧
      ss.outcome = .malformed ∧ ss.request < 126 ∧ (s.buf.desc ss.request).ingress = some x ∧ ss.replyLen = 378 ∧
      s.buf.replyReady ss.replyLen 4) ∧
    ∃ (s : State) (ss : Session) (x : Line), s.quiet = true ∧ s.unflushed = [] ∧ s.engine.session = some ss ∧
      ss.outcome = .truncated ∧ ss.request < 126 ∧ (s.buf.desc ss.request).ingress = some x ∧ ss.replyLen = 374 ∧
      s.buf.replyReady ss.replyLen 4 ∧ s.gaps = [[.notice]] ∧ s.buf.freedEvents ss.request = [.bufferRecovered] := by
  refine ⟨⟨{ replying (asking 0x01 []) 378 with engine := ⟨.executing, [], some ⟨0, 1, 16, 378, .malformed⟩⟩ },
      ⟨0, 1, 16, 378, .malformed⟩, .b, by decide +kernel, rfl, rfl, rfl, by decide, by decide +kernel, rfl,
      ⟨by decide +kernel, by decide +kernel, by decide +kernel, by decide +kernel, by decide +kernel, by decide +kernel⟩⟩,
    ⟨{ replying (asking 0x01 []) 374 with
        gaps := [[.notice]]
        emitter := { State.reset.emitter with enabled := true }
        buf := { (replying (asking 0x01 []) 374).buf with lowArmed := false, freeCells := List.range' 1 96 }
        engine := ⟨.reinitPending, [], some ⟨0, 1, 16, 374, .truncated⟩⟩ },
      ⟨0, 1, 16, 374, .truncated⟩, .b, by decide +kernel, rfl, rfl, rfl, by decide, by decide +kernel, rfl,
      ⟨by decide +kernel, by decide +kernel, by decide +kernel, by decide +kernel, by decide +kernel, by decide +kernel⟩,
      rfl, by decide +kernel⟩⟩

/-! ### Witnesses: management requests -/

theorem witness_IdentifySelfSetReinit :
    (∃ (s : State) (ss : Session) (h : RecordHead) (params : List Byte), s.requested ss h 0x01 params) ∧
    (∃ (s : State) (ss : Session) (h : RecordHead) (o : Byte), s.requested ss h 0x0E [o]) ∧
    ∃ (s : State) (ss : Session) (h : RecordHead) (params : List Byte), s.requested ss h 0x10 params :=
  ⟨⟨asking 0x01 [], session, head 0x01 0, [], requested_of _ _ _ _ _ (by decide +kernel)⟩,
    ⟨asking 0x0E [0xFF], session, head 0x0E 1, 0xFF, requested_of _ _ _ _ _ (by decide +kernel)⟩,
    ⟨asking 0x10 [], session, head 0x10 0, [], requested_of _ _ _ _ _ (by decide +kernel)⟩⟩

/-- A line record of the least and greatest values that section 1.7.3 lets in. -/
def widest (permitted : Byte) : List Byte := [0x00, 0x5A, 15, 0x03, 0xE8, 0x75, 0x30, 0, 17, 0x01, 0xEE, permitted]

def widestConfig (permitted : Bool) : LineConfig := ⟨0x00, 0x5A, 15, 1000, 30000, 17, 494, permitted⟩

theorem widest_valid (p : Byte) (h : p = 0 ∨ p = 1) : LineConfig.validRecord (widest p) (widestConfig (decide (p = 1))) :=
  ⟨0x00, 0x5A, 15, 0x03, 0xE8, 0x75, 0x30, 0, 17, 0x01, 0xEE, p, rfl, by decide, by decide, by decide, by decide, by decide,
    by decide, by decide, h, rfl⟩

/-- LINE-SET refused for BLK as SYN1, locked out by each test of R144, and carried out with the sync pair kept and
changed, with permission and without it. -/
theorem witness_LineSetReplacesOrRefuses :
    (∃ (s : State) (ss : Session) (h : RecordHead) (params : List Byte), s.requested ss h 0x02 params ∧
      ∀ (x : Line) (c : LineConfig) (body : List Byte), params = x.code :: body → ¬LineConfig.validRecord body c) ∧
    (∃ (s : State) (ss : Session) (h : RecordHead) (x : Line) (c : LineConfig) (body : List Byte),
      s.requested ss h 0x02 (x.code :: body) ∧ LineConfig.validRecord body c ∧ c.permitted = false ∧
      (s.buf.desc ss.request).ingress = some x) ∧
    (∃ (s : State) (ss : Session) (h : RecordHead) (x : Line) (c : LineConfig) (body : List Byte),
      s.requested ss h 0x02 (x.code :: body) ∧ LineConfig.validRecord body c ∧ c.permitted = false ∧
      (s.buf.desc ss.request).ingress ≠ some x ∧ ∀ y, y ≠ x → (s.config.get y).permitted = false) ∧
    (∃ (s : State) (ss : Session) (h : RecordHead) (x : Line) (c : LineConfig) (body : List Byte),
      s.requested ss h 0x02 (x.code :: body) ∧ LineConfig.validRecord body c ∧ c.permitted = true ∧
      (s.config.get x).syn1 = c.syn1 ∧ (s.config.get x).syn2 = c.syn2) ∧
    ∃ (s : State) (ss : Session) (h : RecordHead) (x : Line) (c : LineConfig) (body : List Byte),
      s.requested ss h 0x02 (x.code :: body) ∧ LineConfig.validRecord body c ∧
      ((s.buf.desc ss.request).ingress ≠ some x ∧ ∃ y, y ≠ x ∧ (s.config.get y).permitted = true) ∧
      (s.config.get x).syn1 ≠ c.syn1 := by
  refine ⟨⟨asking 0x02 (0 :: 0x5A :: (widest 1).tail), session, head 0x02 13, _,
      requested_of _ _ _ _ (0 :: 0x5A :: (widest 1).tail) (by decide +kernel), ?_⟩,
    ⟨asking 0x02 (1 :: widest 0), session, head 0x02 13, .b, widestConfig false, widest 0,
      requested_of _ _ _ _ _ (by decide +kernel), widest_valid 0 (.inl rfl), rfl, by decide +kernel⟩,
    ⟨{ asking 0x02 (2 :: widest 0) with config := ⟨{ permitted := false }, { permitted := false }, {}⟩ }, session,
      head 0x02 13, .l, widestConfig false, widest 0, requested_of _ _ _ _ _ (by decide +kernel),
      widest_valid 0 (.inl rfl), rfl, by decide +kernel, ?_⟩,
    ⟨{ asking 0x02 (0 :: widest 1) with config := ⟨widestConfig false, {}, {}⟩ }, session, head 0x02 13, .a,
      widestConfig true, widest 1, requested_of _ _ _ _ _ (by decide +kernel), widest_valid 1 (.inr rfl), rfl, rfl, rfl⟩,
    ⟨asking 0x02 (0 :: widest 0), session, head 0x02 13, .a, widestConfig false, widest 0,
      requested_of _ _ _ _ _ (by decide +kernel), widest_valid 0 (.inl rfl), ⟨by decide +kernel, .b, by decide, rfl⟩,
      by decide⟩⟩
  · rintro x c body hb ⟨s1, _, _, _, _, _, _, _, _, _, _, _, hbody, h1, _⟩
    rw [hbody] at hb
    exact h1 (List.cons.inj (List.cons.inj hb).2).1.symm
  · intro y hy
    cases y
    · rfl
    · rfl
    · exact absurd rfl hy

theorem witness_LineGetAndLineRestart :
    (∃ (s : State) (ss : Session) (h : RecordHead) (x : Line), s.requested ss h 0x03 [x.code]) ∧
    (∃ (s : State) (ss : Session) (h : RecordHead) (x : Line), s.requested ss h 0x04 [x.code]) ∧
    (∃ (s : State) (ss : Session) (h : RecordHead) (code : Byte), s.requested ss h 0x03 [code] ∧ code.toNat = 3) ∧
    ∃ (s : State) (ss : Session) (h : RecordHead) (code : Byte), s.requested ss h 0x04 [code] ∧ code.toNat = 255 :=
  ⟨⟨asking 0x03 [2], session, head 0x03 1, .l, requested_of _ _ _ _ _ (by decide +kernel)⟩,
    ⟨asking 0x04 [2], session, head 0x04 1, .l, requested_of _ _ _ _ _ (by decide +kernel)⟩,
    ⟨asking 0x03 [3], session, head 0x03 1, 3, requested_of _ _ _ _ _ (by decide +kernel), rfl⟩,
    ⟨asking 0x04 [255], session, head 0x04 1, 255, requested_of _ _ _ _ _ (by decide +kernel), rfl⟩⟩

theorem witness_QueueFlushReleasesTheTickets :
    (∃ (s : State) (ss : Session) (h : RecordHead) (code set : Byte), s.requested ss h 0x05 [code, set] ∧
      code.toNat = 3) ∧
    (∃ (s : State) (ss : Session) (h : RecordHead) (code set : Byte), s.requested ss h 0x05 [code, set] ∧
      set.toNat = 0) ∧
    (∃ (s : State) (ss : Session) (h : RecordHead) (code set : Byte), s.requested ss h 0x05 [code, set] ∧
      set.toNat = 4) ∧
    ∀ set ∈ [(1 : Byte), 2, 3], ∃ (s : State) (ss : Session) (h : RecordHead) (x : Line),
      s.requested ss h 0x05 [x.code, set] ∧ 1 ≤ set.toNat ∧ set.toNat ≤ 3 ∧ (s.tx.get x).urgent = [5] ∧
      (s.tx.get x).normal = [6] := by
  refine ⟨⟨asking 0x05 [3, 1], session, head 0x05 2, 3, 1, requested_of _ _ _ _ _ (by decide +kernel), rfl⟩,
    ⟨asking 0x05 [0, 0], session, head 0x05 2, 0, 0, requested_of _ _ _ _ _ (by decide +kernel), rfl⟩,
    ⟨asking 0x05 [0, 4], session, head 0x05 2, 0, 4, requested_of _ _ _ _ _ (by decide +kernel), rfl⟩, ?_⟩
  simp only [List.forall_mem_cons, List.not_mem_nil, false_imp_iff, implies_true, and_true]
  have meets : ∀ set ∈ [(1 : Byte), 2, 3], State.requested
      { asking 0x05 [0, set] with tx := (flushing []).tx } session (head 0x05 2) 0x05 [Line.a.code, set] := by
    simp only [List.forall_mem_cons, List.not_mem_nil, false_imp_iff, implies_true, and_true]
    refine ⟨requested_of _ _ _ _ _ ?_, requested_of _ _ _ _ _ ?_, requested_of _ _ _ _ _ ?_⟩ <;> decide +kernel
  exact ⟨⟨_, _, _, .a, meets 1 (by decide), by decide, by decide, rfl, rfl⟩,
    ⟨_, _, _, .a, meets 2 (by decide), by decide, by decide, rfl, rfl⟩,
    ⟨_, _, _, .a, meets 3 (by decide), by decide, by decide, rfl, rfl⟩⟩

/-- A FLUSH-ALL with tickets waiting, all at once and in parts; a part to be made and one already made; parts made at a
later step; and parts left for the engine's next step. -/
theorem witness_FlushAllEmptiesThePart :
    (∃ (s : State) (ss : Session) (h : RecordHead) (params : List Byte), s.requested ss h 0x0F params ∧
      s.flushes.headD FlushPart.all = FlushPart.all ∧ s.tx.a.urgent = [5] ∧ s.engine.queue = [3]) ∧
    (∃ (s : State) (ss : Session) (h : RecordHead) (params : List Byte), s.requested ss h 0x0F params ∧
      s.flushes.headD FlushPart.all = [.management]) ∧
    (∀ k ∈ FlushPart.all, ∃ s : State, k ∈ s.unflushed ∧ s.tx.a.urgent = [5] ∧ s.rx.b.filling = some 125 ∧
      s.engine.queue = [3]) ∧
    (∃ (s : State) (k : FlushPart), k ∉ s.unflushed) ∧
    (∃ s : State, s.quiet = true ∧ s.flushes.headD [] ≠ [] ∧ ∀ k ∈ s.flushes.headD [], k ∈ s.unflushed) ∧
    ∃ (s : State) (c : Instr), s.quiet = true ∧ c = .flushAll ∧ s.unflushed ≠ [] ∧
      ∃ k ∈ s.flushes.headD [], k ∉ s.unflushed :=
  ⟨⟨flushing [], session, head 0x0F 0, [], requested_of _ _ _ _ _ (by decide +kernel), rfl, rfl, rfl⟩,
    ⟨flushing [[.management]], session, head 0x0F 0, [], requested_of _ _ _ _ _ (by decide +kernel), rfl⟩,
    fun k hk => ⟨{ flushing [] with unflushed := FlushPart.all }, hk, rfl, rfl, rfl⟩,
    ⟨State.reset, .management, by decide⟩,
    ⟨{ flushing [[.receiver .b, .management]] with unflushed := [.receiver .b, .management] }, by decide +kernel⟩,
    ⟨{ flushing [[.queues .a]] with unflushed := [.receiver .b] }, .flushAll, by decide +kernel⟩⟩

theorem witness_DefaultSetReplacesTheRoute :
    (∃ (s : State) (ss : Session) (h : RecordHead) (code : Byte) (body : List Byte) (x : Line) (r : DefaultRoute),
      s.requested ss h 0x06 (code :: body) ∧ code = x.code ∧ DefaultRoute.validBody body r) ∧
    (∃ (s : State) (ss : Session) (h : RecordHead) (code : Byte) (body : List Byte),
      s.requested ss h 0x06 (code :: body) ∧ code.toNat = 3) ∧
    ∃ (s : State) (ss : Session) (h : RecordHead) (code : Byte) (body : List Byte),
      s.requested ss h 0x06 (code :: body) ∧ ∀ r, ¬DefaultRoute.validBody body r := by
  refine ⟨⟨asking 0x06 [2, 0, 7, 1], session, head 0x06 4, 2, [0, 7, 1], .l, .forward ⟨true, true, true⟩ .urgent,
      requested_of _ _ _ _ _ (by decide +kernel), rfl, .inl ⟨7, 1, rfl, by decide, by decide, rfl⟩⟩,
    ⟨asking 0x06 [3, 1, 0, 0], session, head 0x06 4, 3, [1, 0, 0], requested_of _ _ _ _ _ (by decide +kernel), rfl⟩,
    ⟨asking 0x06 [0, 0, 8, 0], session, head 0x06 4, 0, [0, 8, 0], requested_of _ _ _ _ _ (by decide +kernel), ?_⟩⟩
  rintro r (⟨e, c, hb, he, _⟩ | ⟨hb, _⟩)
  · rw [← (List.cons.inj (List.cons.inj hb).2).1] at he
    exact absurd he (by decide)
  · exact absurd hb (by decide)

/-- A route body of the greatest values. -/
def body : List Byte := [0, 7, 1, 1, 0xFF, 64]

def bodyRoute : Route := .forward ⟨true, true, true⟩ .urgent (some 0xFF)

theorem body_valid : Route.validBody body bodyRoute 64 :=
  .inl ⟨7, 1, 0xFF, 64, rfl, by decide, by decide, by decide, rfl, rfl⟩

/-- A route body with a window of 65. -/
def wrongBody : List Byte := [0, 7, 1, 1, 0xFF, 65]

theorem wrongBody_invalid (r : Route) (w : Nat) : ¬Route.validBody wrongBody r w := by
  rintro (⟨e, c, v, k, hb, _, _, hk, _⟩ | ⟨e, c, k, hb, _⟩ | ⟨hb, _⟩)
  · rw [wrongBody] at hb
    injection hb with _ hb
    injection hb with _ hb
    injection hb with _ hb
    injection hb with _ hb
    injection hb with _ hb
    injection hb with hb _
    rw [← hb] at hk
    exact absurd hk (by decide)
  · rw [wrongBody] at hb
    injection hb with _ hb
    injection hb with _ hb
    injection hb with _ hb
    injection hb with hb _
    exact absurd hb (by decide)
  · exact absurd hb (by decide)

def inserting (params : List Byte) (n : Nat) (v : Slot) : State := withSlot (asking 0x07 params) n v

theorem witness_RouteInsertTakesTheLowestFreeSlot :
    (∃ (s : State) (ss : Session) (h : RecordHead) (line dst : Byte) (body : List Byte),
      s.requested ss h 0x07 (line :: dst :: body) ∧ line.toNat = 3) ∧
    (∃ (s : State) (ss : Session) (h : RecordHead) (line dst : Byte) (body : List Byte),
      s.requested ss h 0x07 (line :: dst :: body) ∧ ∀ r w, ¬Route.validBody body r w) ∧
    (∃ (s : State) (ss : Session) (h : RecordHead) (x : Line) (dst : Byte) (r : Route) (w n : Nat) (e : Entry),
      s.requested ss h 0x07 (x.code :: dst :: body) ∧ Route.validBody body r w ∧ s.routes.slot n = .active e ∧
      e.keyLine = x ∧ e.keyDst = dst) ∧
    (∃ (s : State) (ss : Session) (h : RecordHead) (x : Line) (dst : Byte) (r : Route) (w : Nat),
      s.requested ss h 0x07 (x.code :: dst :: body) ∧ Route.validBody body r w ∧
      (∀ v ∈ s.routes.slots, v.matches x dst = false) ∧ ∀ v ∈ s.routes.slots, v ≠ .free) ∧
    ∃ (s : State) (ss : Session) (h : RecordHead) (x : Line) (dst : Byte) (r : Route) (w n : Nat),
      s.requested ss h 0x07 (x.code :: dst :: body) ∧ Route.validBody body r w ∧
      (∀ v ∈ s.routes.slots, v.matches x dst = false) ∧ s.routes.slots[n]? = some .free ∧ n = 1 ∧
      ∀ v ∈ s.routes.slots.take n, v ≠ .free :=
  ⟨⟨asking 0x07 (3 :: 0 :: body), session, head 0x07 8, 3, 0, body, requested_of _ _ _ _ _ (by decide +kernel), rfl⟩,
    ⟨asking 0x07 (0 :: 0 :: wrongBody), session, head 0x07 8, 0, 0, wrongBody, requested_of _ _ _ _ _ (by decide +kernel),
      wrongBody_invalid⟩,
    ⟨inserting (1 :: 1 :: body) 95 (.active (entry 1 toA none 0)), session, head 0x07 8, .b, 1, bodyRoute, 64, 95,
      entry 1 toA none 0, requested_of _ _ _ _ _ (by decide +kernel), body_valid, by decide +kernel, rfl, rfl⟩,
    ⟨fullTable (asking 0x07 (1 :: 1 :: body)) (.retiring (entry 1 toA none 1)), session, head 0x07 8, .b, 1, bodyRoute, 64,
      requested_of _ _ _ _ _ (by decide +kernel), body_valid, by decide +kernel, by decide +kernel⟩,
    ⟨inserting (1 :: 1 :: body) 0 (.active (entry 2 toA none 0)), session, head 0x07 8, .b, 1, bodyRoute, 64, 1,
      requested_of _ _ _ _ _ (by decide +kernel), body_valid, by decide +kernel, by decide +kernel, rfl, by decide +kernel⟩⟩

/-- ROUTE-UPDATE refused in each way, and carried out with a window that stays and with one that is new. -/
theorem witness_RouteUpdateKeepsKeyAndBinds :
    (∃ (s : State) (ss : Session) (h : RecordHead) (n line dst clear : Byte),
      s.requested ss h 0x08 (n :: line :: dst :: (body ++ [clear])) ∧ line.toNat = 3) ∧
    (∃ (s : State) (ss : Session) (h : RecordHead) (n line dst clear : Byte),
      s.requested ss h 0x08 (n :: line :: dst :: (body ++ [clear])) ∧ clear.toNat = 2) ∧
    (∃ (s : State) (ss : Session) (h : RecordHead) (n line dst clear : Byte),
      s.requested ss h 0x08 (n :: line :: dst :: (wrongBody ++ [clear])) ∧ wrongBody.length = 6 ∧
      ∀ r w, ¬Route.validBody wrongBody r w) ∧
    (∃ (s : State) (ss : Session) (h : RecordHead) (n : Byte) (x : Line) (dst clear : Byte) (r : Route) (w : Nat),
      s.requested ss h 0x08 (n :: x.code :: dst :: (body ++ [clear])) ∧ clear.toNat ≤ 1 ∧ Route.validBody body r w ∧
      ∀ e, s.routes.slot n.toNat ≠ .active e) ∧
    (∃ (s : State) (ss : Session) (h : RecordHead) (n : Byte) (x : Line) (dst clear : Byte) (r : Route) (w : Nat)
      (e : Entry), s.requested ss h 0x08 (n :: x.code :: dst :: (body ++ [clear])) ∧ clear.toNat ≤ 1 ∧
      Route.validBody body r w ∧ s.routes.slot n.toNat = .active e ∧ ¬(e.keyLine = x ∧ e.keyDst = dst)) ∧
    ∀ k ∈ [none, some (⟨1, 9, true⟩ : SeqCheck)],
      ∃ (s : State) (ss : Session) (h : RecordHead) (n : Byte) (x : Line) (dst clear : Byte) (r : Route) (w : Nat)
        (e : Entry), s.requested ss h 0x08 (n :: x.code :: dst :: (body ++ [clear])) ∧ clear = 1 ∧
        Route.validBody body r w ∧ s.routes.slot n.toNat = .active e ∧ e.keyLine = x ∧ e.keyDst = dst ∧
        e.seqCheck = k := by
  refine ⟨⟨asking 0x08 ([0, 3, 1] ++ body ++ [0]), session, head 0x08 10, 0, 3, 1, 0,
      requested_of _ _ _ _ _ (by decide +kernel), rfl⟩,
    ⟨asking 0x08 ([0, 1, 1] ++ body ++ [2]), session, head 0x08 10, 0, 1, 1, 2,
      requested_of _ _ _ _ _ (by decide +kernel), rfl⟩,
    ⟨asking 0x08 ([0, 1, 1] ++ wrongBody ++ [0]), session, head 0x08 10, 0, 1, 1, 0,
      requested_of _ _ _ _ _ (by decide +kernel), rfl, wrongBody_invalid⟩,
    ⟨withSlot (asking 0x08 ([95, 1, 1] ++ body ++ [1])) 95 (.retiring (entry 1 toA none 1)), session, head 0x08 10, 95, .b,
      1, 1, bodyRoute, 64, requested_of _ _ _ _ _ (by decide +kernel), by decide, body_valid, ?_⟩,
    ⟨withSlot (asking 0x08 ([95, 1, 1] ++ body ++ [1])) 95 (.active (entry 2 toA none 1)), session, head 0x08 10, 95, .b, 1,
      1, bodyRoute, 64, entry 2 toA none 1, requested_of _ _ _ _ _ (by decide +kernel), by decide, body_valid,
      by decide +kernel, by decide⟩, ?_⟩
  · intro e he
    have hs : Slot.retiring (entry 1 toA none 1) = .active e := he
    cases hs
  · simp only [List.forall_mem_cons, List.not_mem_nil, false_imp_iff, implies_true, and_true]
    exact ⟨⟨withSlot (asking 0x08 ([95, 1, 1] ++ body ++ [1])) 95 (.active (entry 1 toA none 1)), session, head 0x08 10, 95,
        .b, 1, 1, bodyRoute, 64, entry 1 toA none 1, requested_of _ _ _ _ _ (by decide +kernel), rfl, body_valid,
        by decide +kernel, rfl, rfl, rfl⟩,
      ⟨withSlot (asking 0x08 ([95, 1, 1] ++ body ++ [1])) 95 (.active (entry 1 toA (some ⟨1, 9, true⟩) 1)), session,
        head 0x08 10, 95, .b, 1, 1, bodyRoute, 64, entry 1 toA (some ⟨1, 9, true⟩) 1,
        requested_of _ _ _ _ _ (by decide +kernel), rfl, body_valid, by decide +kernel, rfl, rfl, rfl⟩⟩

/-- ROUTE-DELETE refused in each way, a slot freed, and a slot retired by its one bind. -/
theorem witness_RouteDeleteFreesOrRetires :
    (∃ (s : State) (ss : Session) (h : RecordHead) (n line dst : Byte), s.requested ss h 0x09 [n, line, dst] ∧
      line.toNat = 3) ∧
    (∃ (s : State) (ss : Session) (h : RecordHead) (n dst : Byte) (x : Line), s.requested ss h 0x09 [n, x.code, dst] ∧
      n.toNat = 96 ∧ ∀ e, s.routes.slot n.toNat ≠ .active e) ∧
    (∃ (s : State) (ss : Session) (h : RecordHead) (n dst : Byte) (x : Line) (e : Entry),
      s.requested ss h 0x09 [n, x.code, dst] ∧ s.routes.slot n.toNat = .active e ∧
      ¬(e.keyLine = x ∧ e.keyDst = dst)) ∧
    ∀ binds ∈ [0, 1], ∃ (s : State) (ss : Session) (h : RecordHead) (n dst : Byte) (x : Line) (e : Entry),
      s.requested ss h 0x09 [n, x.code, dst] ∧ s.routes.slot n.toNat = .active e ∧ e.keyLine = x ∧ e.keyDst = dst ∧
      e.binds = binds := by
  refine ⟨⟨asking 0x09 [0, 3, 1], session, head 0x09 3, 0, 3, 1, requested_of _ _ _ _ _ (by decide +kernel), rfl⟩,
    ⟨asking 0x09 [96, 1, 1], session, head 0x09 3, 96, 1, .b, requested_of _ _ _ _ _ (by decide +kernel), rfl, ?_⟩,
    ⟨withSlot (asking 0x09 [95, 0, 1]) 95 (.active (entry 1 toA none 0)), session, head 0x09 3, 95, 1, .a,
      entry 1 toA none 0, requested_of _ _ _ _ _ (by decide +kernel), by decide +kernel, by decide⟩, ?_⟩
  · intro e he
    have hs : Slot.free = .active e := he
    cases hs
  · simp only [List.forall_mem_cons, List.not_mem_nil, false_imp_iff, implies_true, and_true]
    exact ⟨⟨withSlot (asking 0x09 [95, 1, 1]) 95 (.active (entry 1 toA none 0)), session, head 0x09 3, 95, 1, .b,
        entry 1 toA none 0, requested_of _ _ _ _ _ (by decide +kernel), by decide +kernel, rfl, rfl, rfl⟩,
      ⟨withSlot (asking 0x09 [95, 1, 1]) 95 (.active (entry 1 toA none 1)), session, head 0x09 3, 95, 1, .b,
        entry 1 toA none 1, requested_of _ _ _ _ _ (by decide +kernel), by decide +kernel, rfl, rfl, rfl⟩⟩

theorem witness_RouteReadAndRouteFind :
    (∃ (s : State) (ss : Session) (h : RecordHead) (n : Byte), s.requested ss h 0x0A [n] ∧
      ∀ e, s.routes.slot n.toNat ≠ .active e) ∧
    (∀ e ∈ [entry 1 toA (some ⟨64, 9, true⟩) 0, entry 1 bodyRoute none 2, entry 1 .discard none 0],
      ∃ (s : State) (ss : Session) (h : RecordHead) (n : Byte), s.requested ss h 0x0A [n] ∧
        s.routes.slot n.toNat = .active e) ∧
    (∃ (s : State) (ss : Session) (h : RecordHead) (line dst : Byte), s.requested ss h 0x0B [line, dst] ∧
      line.toNat = 3) ∧
    (∃ (s : State) (ss : Session) (h : RecordHead) (x : Line) (dst : Byte), s.requested ss h 0x0B [x.code, dst] ∧
      ∀ v ∈ s.routes.slots, v.matches x dst = false) ∧
    ∃ (s : State) (ss : Session) (h : RecordHead) (x : Line) (dst : Byte) (n : Nat) (e : Entry),
      s.requested ss h 0x0B [x.code, dst] ∧ s.KeysUnique ∧ s.routes.slot n = .active e ∧ e.keyLine = x ∧
      e.keyDst = dst := by
  refine ⟨⟨asking 0x0A [0], session, head 0x0A 1, 0, requested_of _ _ _ _ _ (by decide +kernel), ?_⟩, ?_,
    ⟨asking 0x0B [3, 1], session, head 0x0B 2, 3, 1, requested_of _ _ _ _ _ (by decide +kernel), rfl⟩,
    ⟨withSlot (asking 0x0B [1, 1]) 0 (.retiring (entry 1 toA none 1)), session, head 0x0B 2, .b, 1,
      requested_of _ _ _ _ _ (by decide +kernel), by decide +kernel⟩,
    ⟨withSlot (asking 0x0B [1, 1]) 95 (.active (entry 1 toA none 1)), session, head 0x0B 2, .b, 1, 95, entry 1 toA none 1,
      requested_of _ _ _ _ _ (by decide +kernel), keysUnique_of_one _ 95 _ rfl, by decide +kernel, rfl, rfl⟩⟩
  · intro e he
    have hs : Slot.free = .active e := he
    cases hs
  · simp only [List.forall_mem_cons, List.not_mem_nil, false_imp_iff, implies_true, and_true]
    refine ⟨⟨withSlot (asking 0x0A [95]) 95 _, session, head 0x0A 1, 95, requested_of _ _ _ _ _ ?_, rfl⟩,
      ⟨withSlot (asking 0x0A [95]) 95 _, session, head 0x0A 1, 95, requested_of _ _ _ _ _ ?_, rfl⟩,
      ⟨withSlot (asking 0x0A [95]) 95 _, session, head 0x0A 1, 95, requested_of _ _ _ _ _ ?_, rfl⟩⟩ <;> decide +kernel

/-- COUNTERS-READ refused in each way, and each group read, with and without clear. -/
theorem witness_CountersReadReportsAndClears :
    (∀ p ∈ [((0, 0, 2) : Byte × Byte × Byte), (5, 0, 0), (1, 3, 0), (3, 1, 1), (4, 1, 0)],
      ∃ (s : State) (ss : Session) (h : RecordHead), s.requested ss h 0x0C [p.1, p.2.1, p.2.2] ∧
        (2 ≤ p.2.2.toNat ∨ 5 ≤ p.1.toNat ∨ (p.1.toNat ≤ 1 ∧ 3 ≤ p.2.1.toNat) ∨
          (3 ≤ p.1.toNat ∧ p.2.1 ≠ 0))) ∧
    (∀ p ∈ [((0, 2, 1) : Byte × Byte × Byte), (1, 2, 1), (3, 0, 1), (4, 0, 0)],
      ∃ (s : State) (ss : Session) (h : RecordHead), s.requested ss h 0x0C [p.1, p.2.1, p.2.2] ∧ p.2.2.toNat ≤ 1) ∧
    ∀ v ∈ [Slot.free, .active (entry 1 toA none 0), .retiring (entry 1 toA none 1)],
      ∃ (s : State) (ss : Session) (h : RecordHead) (subject : Byte), s.requested ss h 0x0C [2, subject, 1] ∧
        s.routes.slot subject.toNat = v := by
  simp only [List.forall_mem_cons, List.not_mem_nil, false_imp_iff, implies_true, and_true]
  refine ⟨⟨?_, ?_, ?_, ?_, ?_⟩, ⟨?_, ?_, ?_, ?_⟩, ?_, ?_, ?_⟩
  · exact ⟨asking 0x0C [0, 0, 2], session, head 0x0C 3, requested_of _ _ _ _ _ (by decide +kernel), by decide⟩
  · exact ⟨asking 0x0C [5, 0, 0], session, head 0x0C 3, requested_of _ _ _ _ _ (by decide +kernel), by decide⟩
  · exact ⟨asking 0x0C [1, 3, 0], session, head 0x0C 3, requested_of _ _ _ _ _ (by decide +kernel), by decide⟩
  · exact ⟨asking 0x0C [3, 1, 1], session, head 0x0C 3, requested_of _ _ _ _ _ (by decide +kernel), by decide⟩
  · exact ⟨asking 0x0C [4, 1, 0], session, head 0x0C 3, requested_of _ _ _ _ _ (by decide +kernel), by decide⟩
  · exact ⟨asking 0x0C [0, 2, 1], session, head 0x0C 3, requested_of _ _ _ _ _ (by decide +kernel), by decide⟩
  · exact ⟨asking 0x0C [1, 2, 1], session, head 0x0C 3, requested_of _ _ _ _ _ (by decide +kernel), by decide⟩
  · exact ⟨asking 0x0C [3, 0, 1], session, head 0x0C 3, requested_of _ _ _ _ _ (by decide +kernel), by decide⟩
  · exact ⟨asking 0x0C [4, 0, 0], session, head 0x0C 3, requested_of _ _ _ _ _ (by decide +kernel), by decide⟩
  · exact ⟨asking 0x0C [2, 255, 1], session, head 0x0C 3, 255, requested_of _ _ _ _ _ (by decide +kernel), by decide +kernel⟩
  · exact ⟨withSlot (asking 0x0C [2, 95, 1]) 95 (.active (entry 1 toA none 0)), session, head 0x0C 3, 95,
      requested_of _ _ _ _ _ (by decide +kernel), by decide +kernel⟩
  · exact ⟨withSlot (asking 0x0C [2, 95, 1]) 95 (.retiring (entry 1 toA none 1)), session, head 0x0C 3, 95,
      requested_of _ _ _ _ _ (by decide +kernel), by decide +kernel⟩

theorem witness_NoticeSetConfiguresTheEmitter :
    (∀ p ∈ [([2, 1, 0, 0, 10] : List Byte), [1, 1, 3, 0, 10], [1, 1, 0, 0, 9], [0, 1, 0, 0x27, 0x11]],
      ∃ (s : State) (ss : Session) (h : RecordHead), s.requested ss h 0x0D p ∧
        (2 ≤ (p.getD 0 0).toNat ∨ 3 ≤ (p.getD 2 0).toNat ∨ wordOf (p.getD 3 0) (p.getD 4 0) < 10 ∨
          10000 < wordOf (p.getD 3 0) (p.getD 4 0))) ∧
    ∀ p ∈ [([1, 1, 0, 0, 10] : List Byte), [0, 0xFF, 2, 0x27, 0x10]],
      ∃ (s : State) (ss : Session) (h : RecordHead) (x : Line), s.requested ss h 0x0D p ∧ (p.getD 0 0).toNat ≤ 1 ∧
        p.getD 2 0 = x.code ∧ 10 ≤ wordOf (p.getD 3 0) (p.getD 4 0) ∧ wordOf (p.getD 3 0) (p.getD 4 0) ≤ 10000 := by
  simp only [List.forall_mem_cons, List.not_mem_nil, false_imp_iff, implies_true, and_true]
  refine ⟨⟨?_, ?_, ?_, ?_⟩, ?_, ?_⟩
  · exact ⟨asking 0x0D [2, 1, 0, 0, 10], session, head 0x0D 5, requested_of _ _ _ _ _ (by decide +kernel), by decide⟩
  · exact ⟨asking 0x0D [1, 1, 3, 0, 10], session, head 0x0D 5, requested_of _ _ _ _ _ (by decide +kernel), by decide⟩
  · exact ⟨asking 0x0D [1, 1, 0, 0, 9], session, head 0x0D 5, requested_of _ _ _ _ _ (by decide +kernel), by decide⟩
  · exact ⟨asking 0x0D [0, 1, 0, 0x27, 0x11], session, head 0x0D 5, requested_of _ _ _ _ _ (by decide +kernel), by decide⟩
  · exact ⟨asking 0x0D [1, 1, 0, 0, 10], session, head 0x0D 5, .a, requested_of _ _ _ _ _ (by decide +kernel), by decide⟩
  · exact ⟨asking 0x0D [0, 0xFF, 2, 0x27, 0x10], session, head 0x0D 5, .l, requested_of _ _ _ _ _ (by decide +kernel),
      by decide⟩

/-! ### Witnesses: the Notice Emitter, and the laws -/

/-- All ten records are pending, and the last partition cell is the one claimed. -/
theorem witness_NoticeIsBuilt :
    ∃ (s : State) (c : Nat) (cells : List Nat), s.resetHigh = false ∧
      ¬(s.engine.state = .reinitPending ∧ s.engine.session = none ∧ (s.buf.desc 126).state = .free) ∧
      s.emitter.inbox = [] ∧ s.emitter.enabled = true ∧ s.emitter.pending ≠ {} ∧ s.emitter.timer = .expired ∧
      (s.buf.desc 127).state = .free ∧ (s.buf.desc 127).chain = [] ∧ s.buf.descs.length = 128 ∧
      s.emitter.pending.total < s.awaits.headD 0 ∧
      s.buf.freePart = c :: cells ∧ c < 512 ∧ s.buf.mem.wf = true ∧ s.emitter.pending.records.length = 10 :=
  ⟨{ State.reset with
      awaits := [65545]
      buf := { State.reset.buf with freePart := [511] }
      emitter :=
        { enabled := true
          pending :=
            ⟨⟨some 1, some 1, some 65535⟩, ⟨some 1, some 1, some 1⟩, some 1, some 1, some ⟨95, 1⟩, some ⟨.l, 1⟩⟩ } },
    511, [], by decide +kernel⟩

theorem witness_EventsAndTheIntervalTimer :
    (∃ m : Emitter, m.enabled = false) ∧
    (∃ m : Emitter, m.enabled = true ∧ m.pending.bufferLow = some 65535) ∧
    (∃ s : State, s.quiet = true ∧ s.emitter.timer = .running 0) ∧
    (∃ s : State, s.quiet = true ∧ s.emitter.timer = .running 1 ∧ TickTaker.timer ∈ s.owed) ∧
    (∃ s : State, s.quiet = true ∧ s.emitter.timer = .running 2 ∧ TickTaker.timer ∈ s.owed) ∧
    (∃ s : State, s.quiet = true ∧ s.emitter.timer = .running 1 ∧ TickTaker.timer ∉ s.owed) ∧
    ∃ s : State, s.quiet = true ∧ s.emitter.timer = .expired :=
  ⟨⟨{}, rfl⟩, ⟨{ enabled := true, pending := { bufferLow := some 65535 } }, rfl, rfl⟩,
    ⟨{ State.reset with emitter := { timer := .running 0 } }, by decide +kernel⟩,
    ⟨{ State.reset with emitter := { timer := .running 1 }, owed := [.timer] }, by decide +kernel⟩,
    ⟨{ State.reset with emitter := { timer := .running 2 }, owed := [.timer] }, by decide +kernel⟩,
    ⟨{ State.reset with emitter := { timer := .running 1 } }, by decide +kernel⟩,
    ⟨State.reset, by decide +kernel⟩⟩

/-- Line B in GAP, with BLK waiting to be taken. -/
def busy : State := { receiving (boundary .gap) with pending := [.octetInGap .b 0x5A] }

theorem step_of_busy : step busy = exec (.octetInGap .b 0x5A) (receiving (boundary .gap)) := by rfl

theorem witness_StepsKeepMemoryCanonical : ∃ s t : State, s.MemoryCanonical ∧ step s = .next t :=
  ⟨busy, _, by unfold State.MemoryCanonical; decide, step_of_busy⟩

theorem witness_StepsKeepReceiverLaw : ∃ s t : State, s.ReceiverLaw ∧ step s = .next t := by
  refine ⟨busy, _, ?_, step_of_busy⟩
  intro x
  cases x <;> decide

theorem witness_StepsKeepConfigurationAndBounds :
    ∃ s t : State, (s.ConfigLegal ∧ s.SomePermitted ∧ s.TransmitterBounds ∧ s.EmitterBounds ∧ s.TickLaw) ∧
      step s = .next t := by
  refine ⟨busy, _, ⟨?_, ⟨.a, rfl⟩, ?_, ⟨by decide, ?_⟩, by unfold State.TickLaw; decide⟩, step_of_busy⟩
  · intro x
    cases x <;> decide
  · intro x
    cases x <;> decide
  · intro n h
    cases h

theorem witness_StepsKeepKeysUnique : ∃ s t : State, s.KeysUnique ∧ step s = .next t :=
  ⟨withSlot busy 95 (.active (entry 1 toA none 0)), _, keysUnique_of_one _ 95 _ rfl, by rfl⟩

theorem witness_StepsKeepEngineLaw : ∃ s t : State, s.EngineLaw ∧ step s = .next t := by
  refine ⟨{ asking 0x01 [] with pending := [.identify] }, _,
    ⟨by decide, fun h => absurd rfl h, by decide, fun h => (by cases h), fun _ => rfl, ?_⟩, by rfl⟩
  intro ss h
  cases h
  decide

theorem witness_StepsKeepCellsAccounted : ∃ s t : State, s.CellsAccounted ∧ step s = .next t := by
  have hgen : ((busy.buf.descs.take 126).map fun v => v.chain) = List.replicate 126 [] := by decide +kernel
  have hpart : ((busy.buf.descs.drop 126).map fun v => v.chain) = List.replicate 2 [] := by decide +kernel
  have hsum : ∀ (l : List Descriptor) (n c : Nat), (l.map fun v => v.chain) = List.replicate n [] →
      (l.map fun v => v.chain.count c).sum = 0 := by
    intro l n c h
    have hm : (l.map fun v => v.chain.count c) = (l.map fun v => v.chain).map (List.count c) := by
      rw [List.map_map]
      rfl
    rw [hm, h, List.map_replicate, List.count_nil, List.sum_replicate, smul_zero]
  have hcells : busy.buf.freeCells = List.range 494 := by decide +kernel
  have hfree : busy.buf.freePart = List.range' 494 18 := by decide +kernel
  refine ⟨busy, _, ⟨by decide +kernel, by decide +kernel, fun x d h => ?_, fun c => ⟨?_, ?_⟩⟩, step_of_busy⟩
  · cases x <;> cases h
  · rw [Buffer.generalCount, hsum _ _ c hgen, hcells, List.nodup_range.count]
    simp only [List.mem_range, Nat.add_zero]
  · rw [Buffer.partCount, hsum _ _ c hpart, hfree, (by decide : (List.range' 494 18).Nodup).count]
    simp only [List.mem_range'_1, Nat.reduceAdd, Nat.add_zero]

end Sys2Proof.Tests
end

/-! PROOF. Line receivers: what an octet does in CONFIRM (R15), by way of the comparison of HUNT over a whole octet. -/

namespace Sys2Proof.Machine

/-! ### An octet in the bit history -/

/-- The bit history of a receiver holds the eight bits of an octet, and the octet is still to be taken (R12). -/
def State.withOctet (s : State) (x : Line) (o : Byte) : State :=
  s.modRx x fun r => { r with history := octetBits o }

@[simp] theorem State.withOctet_config (s : State) (x : Line) (o : Byte) : (s.withOctet x o).config = s.config := rfl

@[simp] theorem State.withOctet_rx_get (s : State) (x : Line) (o : Byte) :
    (s.withOctet x o).rx.get x = { s.rx.get x with history := octetBits o } := by
  simp [State.withOctet]

theorem State.withOctet_modRx (s : State) (x : Line) (o : Byte) (f : Receiver → Receiver) :
    (s.withOctet x o).modRx x f =
      { s with rx := s.rx.set x (f { s.rx.get x with history := octetBits o }) } := by
  simp [State.withOctet, State.modRx, PerLine.modify_eq_set]

/-! ### The comparison of HUNT over a whole octet (R14, R16) -/

theorem State.huntCompare_of_match (s : State) (x : Line) (o : Byte) (hh : (s.rx.get x).history = octetBits o)
    (ho : o = (s.config.get x).syn1) :
    s.huntCompare x = s.modRx x fun r => { r.enter .confirm with align := some 0 } :=
  if_pos ((octetBits_iff _ _).2 (ho ▸ hh))

theorem State.huntCompare_of_no_match (s : State) (x : Line) (o : Byte) (hh : (s.rx.get x).history = octetBits o)
    (ho : o ≠ (s.config.get x).syn1) : s.huntCompare x = s := by
  refine if_neg fun ⟨_, hsyn⟩ => ho ?_
  rwa [hh, octetOf_octetBits] at hsyn

/-! ### CONFIRM takes an octet (R15) -/

theorem State.takeConfirm_of_syn2 (s : State) (x : Line) (o : Byte) (h : o = (s.config.get x).syn2) :
    s.takeConfirm x o =
      ((s.modRx x fun r => r.enter .gap).countRx x fun c =>
        { c with syncAcquisitions := satAdd c.syncAcquisitions 1 }).raise (.syncGained x) :=
  if_pos h

theorem State.takeConfirm_of_ne_syn2 (s : State) (x : Line) (o : Byte) (h : o ≠ (s.config.get x).syn2) :
    s.takeConfirm x o = (s.modRx x fun r => { r.enter .hunt with align := none }).huntCompare x :=
  if_neg h

/-- The octet that CONFIRM refuses is in the history when HUNT is entered, and it is SYN1: the receiver is back in
CONFIRM (R15, R16). -/
theorem State.takeConfirm_of_syn1 (s : State) (x : Line) (o : Byte) (hh : (s.rx.get x).history = octetBits o)
    (hsyn2 : o ≠ (s.config.get x).syn2) (hsyn1 : o = (s.config.get x).syn1) :
    s.takeConfirm x o = s.modRx x fun r => { r.enter .confirm with align := some 0 } := by
  rw [s.takeConfirm_of_ne_syn2 x o hsyn2, State.huntCompare_of_match _ x o ?history ?syn1]
  case history => simpa [Receiver.enter] using hh
  case syn1 => exact hsyn1
  simp [State.modRx, Receiver.enter]

/-- An octet that is neither SYN2 nor SYN1 leaves the receiver in HUNT (R15). -/
theorem State.takeConfirm_of_neither (s : State) (x : Line) (o : Byte) (hh : (s.rx.get x).history = octetBits o)
    (hsyn2 : o ≠ (s.config.get x).syn2) (hsyn1 : o ≠ (s.config.get x).syn1) :
    s.takeConfirm x o = s.modRx x fun r => { r.enter .hunt with align := none } := by
  rw [s.takeConfirm_of_ne_syn2 x o hsyn2, State.huntCompare_of_no_match _ x o ?history ?syn1]
  case history => simpa [Receiver.enter] using hh
  case syn1 => exact hsyn1

theorem exec_octetInConfirm_of_hears (s : State) (x : Line) (o : Byte) (h : s.hears x .confirm) :
    exec (.octetInConfirm x o) s = .next ((s.withOctet x o).takeConfirm x o) := by
  have ⟨_, hst, _⟩ := h
  have harm : exec (.octetInConfirm x o) s = .next (s.running fun s => s.receiveOctet x o) := rfl
  have htake : (s.withOctet x o).takeOctet x o = (s.withOctet x o).takeConfirm x o := by
    simp [State.takeOctet, hst]
  rw [harm, s.octet_of_hears x o .confirm h, ← htake, State.withOctet]

/-- Settles O10: SYN2 is the first branch of R15; of any other octet the comparison of HUNT decides, over the octet
that the history now holds. -/
theorem confirmTakesAnOctet : Obligations.ConfirmTakesAnOctet := by
  intro s x o h
  have hh : ((s.withOctet x o).rx.get x).history = octetBits o := by simp
  rw [exec_octetInConfirm_of_hears s x o h]
  refine ⟨fun hsyn2 => ?gained, fun hsyn2 hsyn1 => ?confirmAgain, fun hsyn2 hsyn1 => ?stillHunting⟩
  case gained =>
    rw [(s.withOctet x o).takeConfirm_of_syn2 x o hsyn2, s.withOctet_modRx]
    rfl
  case confirmAgain =>
    rw [(s.withOctet x o).takeConfirm_of_syn1 x o hh hsyn2 hsyn1, s.withOctet_modRx]
    rfl
  case stillHunting =>
    rw [(s.withOctet x o).takeConfirm_of_neither x o hh hsyn2 hsyn1, s.withOctet_modRx]
    rfl

end Sys2Proof.Machine

/-! PROOF. LINE-GET and LINE-RESTART (R147, R148): how a request at the walk position is served, what two steps change
one after the other, and what a line restart does (R32). -/

namespace Sys2Proof.Machine

/-! ### A request at the walk position (R127, R128) -/

theorem State.nextRecord_of_walks (s : State) (ss : Session) (f : Fate) (hwalks : s.walks ss f) :
    s.nextRecord = some (ss, f) := by
  obtain ⟨_, _, hsession, hopen, hfate⟩ := hwalks
  simp [State.nextRecord, hsession, hopen, hfate]

/-- What a response makes of the part once the result of record `h` is written (R132, R141). -/
def Response.written (r : Response) (h : RecordHead) : State := r.state.answer h r.status r.data

@[simp] theorem Response.written_refuse (status : Status) (s : State) (h : RecordHead) :
    (refuse status s).written h = s.answer h status [] := rfl

@[simp] theorem Response.written_accept (data : List Byte) (s : State) (h : RecordHead) :
    (accept data s).written h = s.answer h .ok data := rfl

/-- A request that reaches step 7 is served as the part stands, with nothing done before it. -/
theorem State.atRecord_serve_of_requested (s : State) (ss : Session) (h : RecordHead) (code : Byte) (params : List Byte)
    (respond : Session → List Byte → State → Response) (hreq : s.requested ss h code params) :
    s.atRecord (fun s => s.serve code respond) = (respond ss params s).written h := by
  obtain ⟨hwalks, hcode⟩ := hreq
  have ⟨hquiet, hflushed, _⟩ := hwalks
  rw [s.atRecord_of_quiet _ hquiet hflushed]
  simp [State.serve, s.nextRecord_of_walks ss _ hwalks, hcode, Response.written]

/-! ### Line codes (section 1.8) -/

@[simp] theorem lineOfCode_code (x : Line) : Line.ofCode x.code = some x := by
  cases x <;> rfl

theorem lineOfCode_eq_none (o : Byte) (ho : 3 ≤ o.toNat) : Line.ofCode o = none := by
  have ne_of_lt_three (v : Byte) (hv : v.toNat < 3) : o ≠ v := by
    rintro rfl
    omega
  rw [Line.ofCode, if_neg (ne_of_lt_three 0 (by decide)), if_neg (ne_of_lt_three 1 (by decide)),
    if_neg (ne_of_lt_three 2 (by decide))]

/-! ### LINE-GET and LINE-RESTART as requests -/

theorem exec_lineGet_of_valid (s : State) (ss : Session) (h : RecordHead) (x : Line)
    (hreq : s.requested ss h 0x03 [x.code]) :
    exec .lineGet s =
      .next (s.answer h .ok ([x.code] ++ (s.config.get x).octets ++ [(s.rx.get x).state.code])) := by
  have harm : exec .lineGet s = .next (s.atRecord fun s => s.serve 0x03 respondLineGet) := rfl
  rw [harm, s.atRecord_serve_of_requested ss h _ _ _ hreq]
  simp [respondLineGet]

theorem exec_lineGet_of_invalid (s : State) (ss : Session) (h : RecordHead) (code : Byte) (hcode : 3 ≤ code.toNat)
    (hreq : s.requested ss h 0x03 [code]) : exec .lineGet s = .next (s.answer h .badParameter []) := by
  have harm : exec .lineGet s = .next (s.atRecord fun s => s.serve 0x03 respondLineGet) := rfl
  rw [harm, s.atRecord_serve_of_requested ss h _ _ _ hreq]
  simp [respondLineGet, lineOfCode_eq_none code hcode]

theorem exec_lineRestart_of_valid (s : State) (ss : Session) (h : RecordHead) (x : Line)
    (hreq : s.requested ss h 0x04 [x.code]) : exec .lineRestart s = .next ((s.restart x).answer h .ok []) := by
  have harm : exec .lineRestart s = .next (s.atRecord fun s => s.serve 0x04 respondLineRestart) := rfl
  rw [harm, s.atRecord_serve_of_requested ss h _ _ _ hreq]
  simp [respondLineRestart]

theorem exec_lineRestart_of_invalid (s : State) (ss : Session) (h : RecordHead) (code : Byte) (hcode : 3 ≤ code.toNat)
    (hreq : s.requested ss h 0x04 [code]) : exec .lineRestart s = .next (s.answer h .badParameter []) := by
  have harm : exec .lineRestart s = .next (s.atRecord fun s => s.serve 0x04 respondLineRestart) := rfl
  rw [harm, s.atRecord_serve_of_requested ss h _ _ _ hreq]
  simp [respondLineRestart, lineOfCode_eq_none code hcode]

/-! ### What steps change, one after another -/

theorem Part.same_trans {s t u : State} {p : Part} (hst : p.same s t) (htu : p.same t u) : p.same s u := by
  cases p <;> simp_all [Part.same]

theorem State.changesOnly_trans {s t u : State} {ps qs : List Part} (hst : s.changesOnly t ps)
    (htu : t.changesOnly u qs) : s.changesOnly u (ps ++ qs) := by
  intro p hp
  rw [List.mem_append, not_or] at hp
  exact Part.same_trans (hst p hp.1) (htu p hp.2)

theorem State.changesOnly_mono {s t : State} {ps qs : List Part} (hst : s.changesOnly t ps) (hsub : ps ⊆ qs) :
    s.changesOnly t qs :=
  fun p hp => hst p fun hmem => hp (hsub hmem)

theorem State.changesOnly_modRx (s : State) (x : Line) (f : Receiver → Receiver) :
    s.changesOnly (s.modRx x f) [.rx x] := by
  intro p hp
  cases p
  case rx y => exact PerLine.get_modify_other _ _ (by simpa using hp)
  all_goals simp [Part.same]

theorem State.changesOnly_raise (s : State) (e : Event) : s.changesOnly (s.raise e) [.emitter] := by
  intro p hp
  cases p
  case emitter => simp at hp
  all_goals simp [Part.same]

/-! ### What the return of a block leaves (R34, R65) -/

theorem RouteTable.release_defaults (r : RouteTable) (n : Nat) : (r.release n).1.defaults = r.defaults := by
  unfold RouteTable.release
  split
  · rfl
  · rfl
  · split_ifs <;> rfl

theorem State.releaseBind_buf (s : State) (d : Nat) :
    (s.releaseBind d).buf = s.buf.modDesc d fun v => { v with bound := .none } := by
  unfold State.releaseBind
  split <;> rfl

theorem State.releaseBind_defaults (s : State) (d : Nat) : (s.releaseBind d).routes.defaults = s.routes.defaults := by
  unfold State.releaseBind
  split
  · exact RouteTable.release_defaults _ _
  · rfl
  · rfl

theorem State.changesOnly_returnBlock (s : State) (x : Line) :
    s.changesOnly (s.returnBlock x) [.pools, .descs, .slots, .emitter] := by
  have hmem : (s.returnBlock x).buf.mem = s.buf.mem := by
    unfold State.returnBlock
    split <;> simp [State.freeDesc, State.releaseBind_buf]
  have htickets : (s.returnBlock x).buf.tickets = s.buf.tickets := by
    unfold State.returnBlock
    split <;> simp [State.freeDesc, State.releaseBind_buf]
  have hdefaults : (s.returnBlock x).routes.defaults = s.routes.defaults := by
    unfold State.returnBlock
    split <;> simp [State.releaseBind_defaults]
  intro p hp
  cases p
  case cells => exact fun a => by rw [hmem]
  case tickets => exact htickets
  case defaults => exact hdefaults
  case pools | descs | slots | emitter => simp at hp
  all_goals simp [Part.same]

theorem State.givesBack_returnBlock (s : State) (x : Line) : s.givesBack (s.returnBlock x) x [] := by
  unfold State.givesBack
  split
  next hfilling => simp [State.returnBlock, hfilling]
  next d hfilling =>
    intro hd hlen
    simpa using s.returnBlock_stores x d ⟨hfilling, hd, hlen⟩

/-- Events raised after a return follow those of the return. -/
theorem State.givesBack_hear {s t u : State} {x : Line} (es : List Event) (hback : s.givesBack t x [])
    (hbuf : u.buf = t.buf) (hroutes : u.routes = t.routes) (hemitter : u.emitter = t.emitter.hear es) :
    s.givesBack u x es := by
  unfold State.givesBack at hback ⊢
  split at hback
  next =>
    obtain ⟨hb, hr, he⟩ := hback
    exact ⟨hbuf.trans hb, hroutes.trans hr, by rw [hemitter, he, Emitter.hear_nil]⟩
  next d _ =>
    intro hd hlen
    obtain ⟨hreturned, hbind, he⟩ := hback hd hlen
    refine ⟨hbuf ▸ hreturned, ?_, ?_⟩
    · unfold State.bindReleased at hbind ⊢
      rwa [hroutes]
    · rw [hemitter, he, List.append_nil, Emitter.hear_append]

/-! ### A line restart (R32) -/

/-- SYNC-LOST, where the receiver was in sync (R32). -/
def Receiver.restartEvents (r : Receiver) (x : Line) : List Event := if r.state.inSync then [.syncLost x] else []

theorem State.toHunt_eq (s : State) (x : Line) : s.toHunt x = (s.returnBlock x).modRx x Receiver.hunting := by
  simp only [State.toHunt, State.abandon, State.modRx, PerLine.modify_modify]
  rfl

/-- In any receiver state a restart is the return of the block, the entry of HUNT, and SYNC-LOST where it is due. -/
theorem State.restart_parts (s : State) (x : Line) :
    (s.restart x).rx.get x = (s.rx.get x).hunting ∧ (s.restart x).buf = (s.returnBlock x).buf ∧
      (s.restart x).routes = (s.returnBlock x).routes ∧
      (s.restart x).emitter = (s.returnBlock x).emitter.hear ((s.rx.get x).restartEvents x) := by
  unfold State.restart Receiver.restartEvents
  split_ifs <;> simp [State.toHunt_eq]

theorem State.changesOnly_toHunt (s : State) (x : Line) :
    s.changesOnly (s.toHunt x) [.pools, .descs, .slots, .emitter, .rx x] := by
  rw [State.toHunt_eq]
  exact State.changesOnly_trans (s.changesOnly_returnBlock x) (State.changesOnly_modRx _ x _)

theorem State.changesOnly_restart (s : State) (x : Line) :
    s.changesOnly (s.restart x) [.rx x, .pools, .descs, .slots, .emitter] := by
  have hhunt := s.changesOnly_toHunt x
  unfold State.restart
  split_ifs with hsync
  · exact State.changesOnly_mono (State.changesOnly_trans hhunt (State.changesOnly_raise _ _)) (by simp)
  · exact State.changesOnly_mono hhunt (by simp)

theorem State.restarted_restart (s : State) (x : Line) : s.restarted (s.restart x) x := by
  obtain ⟨hrx, hbuf, hroutes, hemitter⟩ := s.restart_parts x
  exact ⟨hrx, State.givesBack_hear _ (s.givesBack_returnBlock x) hbuf hroutes hemitter, s.changesOnly_restart x⟩

/-- Settles O42: the codes that the statement writes out are `Line.code` and `RxState.code`, each valid one is served by
its response, and the restart that LINE-RESTART asks for is R32's. -/
theorem lineGetAndLineRestart : Obligations.LineGetAndLineRestart := by
  intro s ss h code lineCode
  have hlineCode (x : Line) : lineCode x = x.code := by cases x <;> rfl
  refine ⟨?getReports, ?restarts, exec_lineGet_of_invalid s ss h code, exec_lineRestart_of_invalid s ss h code⟩
  case getReports =>
    rintro x rfl hreq c state
    have hstate : state = (s.rx.get x).state.code := by
      simp only [state]
      cases (s.rx.get x).state <;> rfl
    rw [hlineCode] at hreq ⊢
    rw [exec_lineGet_of_valid s ss h x hreq, hstate]
    rfl
  case restarts =>
    rintro x rfl hreq
    rw [hlineCode] at hreq
    exact ⟨s.restart x, exec_lineRestart_of_valid s ss h x hreq, s.restarted_restart x⟩

end Sys2Proof.Machine

/-! PROOF. What every operation on the block buffer keeps of the laws of section 3.2: the canonical form of the cell
contents, and the account of the cells. -/

namespace Sys2Proof.Machine

/-! ### Sums over a list with one member changed -/

theorem map_modify_of_same {α β : Type} (l : List α) (d : Nat) (f : α → α) (g : α → β) (h : ∀ v, g (f v) = g v) :
    (l.modify d f).map g = l.map g := by
  induction l generalizing d with
  | nil => simp
  | cons v l ih => cases d <;> simp [h, ih]

theorem sum_map_modify {α : Type} (l : List α) (d : Nat) (f : α → α) (g : α → Nat) (v : α) (h : l[d]? = some v) :
    ((l.modify d f).map g).sum + g v = (l.map g).sum + g (f v) := by
  induction l generalizing d with
  | nil => simp at h
  | cons w l ih =>
    cases d with
    | zero =>
      obtain rfl : w = v := by simpa using h
      simp only [List.modify_zero_cons, List.map_cons, List.sum_cons]
      omega
    | succ d =>
      have := ih d (by simpa using h)
      simp only [List.modify_succ_cons, List.map_cons, List.sum_cons]
      omega

/-! ### Chains and counts -/

theorem Buffer.getElem?_desc (b : Buffer) {d : Nat} (h : d < b.descs.length) : b.descs[d]? = some (b.desc d) := by
  simp [Buffer.desc, h]

/-- A descriptor outside the pool holds no cell. -/
theorem Buffer.desc_outside (b : Buffer) {d : Nat} (h : b.descs.length ≤ d) : b.desc d = {} := by
  simp [Buffer.desc, h]

/-- How often a cell stands in the chains of the descriptors before number 126. -/
def generalChains (descs : List Descriptor) (c : Nat) : Nat := ((descs.take 126).map fun v => v.chain.count c).sum

/-- How often a cell stands in the chains of the descriptors from number 126 on. -/
def partChains (descs : List Descriptor) (c : Nat) : Nat := ((descs.drop 126).map fun v => v.chain.count c).sum

theorem Buffer.generalCount_eq (b : Buffer) (c : Nat) :
    b.generalCount c = b.freeCells.count c + generalChains b.descs c := rfl

theorem Buffer.partCount_eq (b : Buffer) (c : Nat) : b.partCount c = b.freePart.count c + partChains b.descs c := rfl

theorem generalChains_modify_of_same (l : List Descriptor) (d c : Nat) (f : Descriptor → Descriptor)
    (h : ∀ v, (f v).chain = v.chain) : generalChains (l.modify d f) c = generalChains l c := by
  rw [generalChains, List.take_modify, map_modify_of_same _ _ _ _ (fun v => by rw [h]), generalChains]

theorem partChains_modify_of_general (l : List Descriptor) {d : Nat} (c : Nat) (f : Descriptor → Descriptor) (h : d < 126) :
    partChains (l.modify d f) c = partChains l c := by
  rw [partChains, List.drop_modify_of_lt _ _ _ _ h, partChains]

theorem generalChains_modify_of_part (l : List Descriptor) {d : Nat} (c : Nat) (f : Descriptor → Descriptor)
    (h : 126 ≤ d) : generalChains (l.modify d f) c = generalChains l c := by
  rw [generalChains, List.take_modify, List.modify_eq_self (by simp; omega), generalChains]

theorem partChains_modify_of_same (l : List Descriptor) (d c : Nat) (f : Descriptor → Descriptor)
    (h : ∀ v, (f v).chain = v.chain) : partChains (l.modify d f) c = partChains l c := by
  rcases Nat.lt_or_ge d 126 with hd | hd
  · exact partChains_modify_of_general l c f hd
  · rw [partChains, List.drop_modify_of_ge _ _ _ _ hd, map_modify_of_same _ _ _ _ (fun v => by rw [h]), partChains]

theorem generalChains_modify (l : List Descriptor) (d c : Nat) (f : Descriptor → Descriptor) (v : Descriptor)
    (hd : d < 126) (hv : l[d]? = some v) :
    generalChains (l.modify d f) c + v.chain.count c = generalChains l c + (f v).chain.count c := by
  rw [generalChains, List.take_modify]
  exact sum_map_modify _ d f (fun v => v.chain.count c) v (by rw [List.getElem?_take_of_lt hd, hv])

theorem partChains_modify (l : List Descriptor) (d c : Nat) (f : Descriptor → Descriptor) (v : Descriptor)
    (hd : 126 ≤ d) (hv : l[d]? = some v) :
    partChains (l.modify d f) c + v.chain.count c = partChains l c + (f v).chain.count c := by
  rw [partChains, List.drop_modify_of_ge _ _ _ _ hd]
  exact sum_map_modify _ (d - 126) f (fun v => v.chain.count c) v (by rw [List.getElem?_drop, Nat.add_sub_cancel' hd, hv])

/-! ### What a buffer operation keeps -/

/-- `b'` keeps of the buffer's laws what `b` has: canonical contents, the pool of descriptors, free descriptors of the
general part, and how often each cell is accounted for. -/
structure Buffer.Keeps (b b' : Buffer) : Prop where
  canonical : b.mem.wf = true → b'.mem.wf = true
  pool : b'.descs.length = b.descs.length
  free : ∀ d ∈ b'.freeDescs, d ∈ b.freeDescs ∨ d < 126
  general : b.descs.length = 128 → ∀ c, b'.generalCount c = b.generalCount c
  part : b.descs.length = 128 → ∀ c, b'.partCount c = b.partCount c

theorem Buffer.Keeps.trans {a b c : Buffer} (hab : a.Keeps b) (hbc : b.Keeps c) : a.Keeps c where
  canonical h := hbc.canonical (hab.canonical h)
  pool := hbc.pool.trans hab.pool
  free d hd := (hbc.free d hd).elim (hab.free d) .inr
  general h n := (hbc.general (hab.pool.trans h) n).trans (hab.general h n)
  part h n := (hbc.part (hab.pool.trans h) n).trans (hab.part h n)

/-- An operation on tickets, marks and thresholds alone. -/
theorem Buffer.Keeps.of_same {b b' : Buffer} (hmem : b'.mem = b.mem) (hcells : b'.freeCells = b.freeCells)
    (hpart : b'.freePart = b.freePart) (hfree : b'.freeDescs = b.freeDescs) (hdescs : b'.descs = b.descs) :
    b.Keeps b' where
  canonical h := hmem ▸ h
  pool := by rw [hdescs]
  free d hd := .inl (hfree ▸ hd)
  general _ c := by rw [Buffer.generalCount_eq, Buffer.generalCount_eq, hcells, hdescs]
  part _ c := by rw [Buffer.partCount_eq, Buffer.partCount_eq, hpart, hdescs]

theorem Buffer.Keeps.refl (b : Buffer) : b.Keeps b := .of_same rfl rfl rfl rfl rfl

theorem Buffer.keeps_write (b : Buffer) (a : Nat) (o : Byte) : b.Keeps { b with mem := b.mem.write a o } where
  canonical := Memory.wf_write _ a o
  pool := rfl
  free _ := .inl
  general _ _ := rfl
  part _ _ := rfl

/-- A change of a descriptor that leaves its chain. -/
theorem Buffer.keeps_modDesc (b : Buffer) (d : Nat) (f : Descriptor → Descriptor) (h : ∀ v, (f v).chain = v.chain) :
    b.Keeps (b.modDesc d f) where
  canonical := id
  pool := List.length_modify ..
  free _ := .inl
  general _ c := by
    rw [Buffer.generalCount_eq, Buffer.modDesc, generalChains_modify_of_same _ _ _ _ h, Buffer.generalCount_eq]
  part _ c := by rw [Buffer.partCount_eq, Buffer.modDesc, partChains_modify_of_same _ _ _ _ h, Buffer.partCount_eq]

theorem Buffer.keeps_modTicket (b : Buffer) (t : Nat) (f : Ticket → Ticket) : b.Keeps (b.modTicket t f) :=
  .of_same rfl rfl rfl rfl rfl

theorem Buffer.keeps_threshold (b : Buffer) (n : Nat) : b.Keeps (b.threshold n).1 := by
  apply Buffer.Keeps.of_same <;> simp

/-! ### Claims and releases -/

/-- A head of the general free list that joins a general chain is accounted for as before (R37). -/
theorem Buffer.keeps_moveCell (b : Buffer) (d c : Nat) (rest : List Nat) (hd : d < 126) (hfree : b.freeCells = c :: rest) :
    b.Keeps (({ b with freeCells := rest }).appendCell d c) where
  canonical := id
  pool := List.length_modify ..
  free _ := .inl
  general hlen n := by
    have hv := b.getElem?_desc (show d < b.descs.length by omega)
    have hsum := generalChains_modify b.descs d n (fun v => { v with chain := v.chain ++ [c] }) _ hd hv
    simp only [Buffer.generalCount_eq, Buffer.appendCell, Buffer.modDesc, hfree, List.count_cons, List.count_append,
      List.count_nil] at hsum ⊢
    omega
  part _ n := by
    rw [Buffer.partCount_eq, Buffer.appendCell, Buffer.modDesc, partChains_modify_of_general _ _ _ hd,
      Buffer.partCount_eq]

/-- A partition cell claimed for the reply or the notice (R50). -/
theorem Buffer.keeps_claimPart (b : Buffer) (d : Nat) (hd : 126 ≤ d) (hlt : d < 128) : b.Keeps (b.claimPart d) := by
  cases hfree : b.freePart with
  | nil => simpa [Buffer.claimPart, hfree] using Buffer.Keeps.refl b
  | cons c rest =>
    rw [Buffer.claimPart_cons b d c rest hfree]
    refine ⟨id, List.length_modify .., fun _ => .inl, fun _ n => ?_, fun hlen n => ?_⟩
    · simp only [Buffer.generalCount_eq, generalChains_modify_of_part _ _ _ hd]
    · have hv := b.getElem?_desc (show d < b.descs.length by omega)
      have hsum := partChains_modify b.descs d n (fun v => { v with chain := v.chain ++ [c] }) _ hd hv
      simp only [Buffer.partCount_eq, hfree, List.count_cons, List.count_append, List.count_nil] at hsum ⊢
      omega

/-- A freed descriptor's chain is on the free list of its part (R37, R47). -/
theorem Buffer.keeps_freeDesc (b : Buffer) (d : Nat) : b.Keeps (b.freeDesc d).1 := by
  have hdescs := b.freeDesc_descs d
  refine ⟨fun h => by simpa using h, by simp, fun n hn => ?free, fun hlen c => ?general, fun hlen c => ?part⟩
  case free =>
    rcases Nat.lt_or_ge d 126 with hd | hd
    · rw [(b.freeDesc_general d hd).2.1, List.mem_append, List.mem_singleton] at hn
      exact hn.imp_right (by rintro rfl; exact hd)
    · obtain ⟨-, -, hfree, -⟩ := b.freeDesc_partition d hd
      exact .inl (hfree ▸ hn)
  case general =>
    rw [Buffer.generalCount_eq, Buffer.generalCount_eq, hdescs]
    rcases Nat.lt_or_ge d 126 with hd | hd
    · have hsum := generalChains_modify b.descs d c
        (fun v => { v with state := .free, chain := [], tickets := 0, bound := .none }) _ hd (b.getElem?_desc (by omega))
      rw [(b.freeDesc_general d hd).1, List.count_append]
      simp only [List.count_nil] at hsum
      omega
    · rw [(b.freeDesc_partition d hd).2.1, generalChains_modify_of_part _ _ _ hd]
  case part =>
    rw [Buffer.partCount_eq, Buffer.partCount_eq, hdescs]
    rcases Nat.lt_or_ge d 126 with hd | hd
    · rw [(b.freeDesc_general d hd).2.2, partChains_modify_of_general _ _ _ hd]
    · rw [(b.freeDesc_partition d hd).1, List.count_append]
      rcases Nat.lt_or_ge d 128 with hlt | hge
      · have hsum := partChains_modify b.descs d c
          (fun v => { v with state := .free, chain := [], tickets := 0, bound := .none }) _ hd
          (b.getElem?_desc (by omega))
        simp only [List.count_nil] at hsum
        omega
      · rw [b.desc_outside (by omega), List.modify_eq_self (by omega), List.count_nil, Nat.add_zero]

theorem Buffer.keeps_claimDesc (b : Buffer) (x : Line) : b.Keeps (b.claimDesc x) := by
  refine Buffer.Keeps.trans (b := { b with freeDescs := b.freeDescs.tail, hwDescs := (b.claimDesc x).hwDescs }) ?_
    (Buffer.keeps_modDesc _ _ _ fun _ => rfl)
  exact ⟨id, rfl, fun d hd => .inl (List.mem_of_mem_tail hd), fun _ _ => rfl, fun _ _ => rfl⟩

/-! ### Octets of the reply and the notice -/

theorem Buffer.keeps_putOctet (b : Buffer) (d k : Nat) (o : Byte) (hd : 126 ≤ d) (hlt : d < 128) :
    b.Keeps (b.putOctet d k o) := by
  have hclaim : b.Keeps (if (b.desc d).chain.length ≤ k / Config.cellSize then b.claimPart d else b) := by
    split_ifs
    · exact b.keeps_claimPart d hd hlt
    · exact .refl b
  rw [Buffer.putOctet]
  split
  · exact hclaim.trans (Buffer.keeps_write _ _ _)
  · exact hclaim

theorem Buffer.keeps_putOctets (b : Buffer) (d k : Nat) (os : List Byte) (hd : 126 ≤ d) (hlt : d < 128) :
    b.Keeps (b.putOctets d k os) := by
  induction os generalizing b k with
  | nil => exact .refl b
  | cons o os ih => exact (b.keeps_putOctet d k o hd hlt).trans (ih _ _)

theorem Buffer.keeps_takeNotice (b : Buffer) (x : Line) : b.Keeps (b.takeNotice x) :=
  Buffer.Keeps.trans (b.keeps_modDesc _ _ fun _ => by rfl) (Buffer.keeps_claimPart _ Config.noticeDesc (by decide) (by decide))

theorem Buffer.keeps_fillNotice (b : Buffer) (dst src seq : Byte) (text : List Byte) :
    b.Keeps (b.fillNotice dst src seq text) :=
  (b.keeps_putOctets _ _ _ (by decide) (by decide)).trans (Buffer.keeps_modDesc _ _ _ fun _ => rfl)

theorem Buffer.keeps_takeReply (b : Buffer) (x : Line) : b.Keeps (b.takeReply x) :=
  Buffer.Keeps.trans (b.keeps_modDesc _ _ fun _ => by rfl) (Buffer.keeps_claimPart _ Config.replyDesc (by decide) (by decide))

theorem Buffer.keeps_finishReply (b : Buffer) (dst src seq : Byte) (len : Nat) :
    b.Keeps (b.finishReply dst src seq len) :=
  (b.keeps_putOctets _ _ _ (by decide) (by decide)).trans (Buffer.keeps_modDesc _ _ _ fun _ => rfl)

/-! ### Tickets -/

theorem Buffer.keeps_setWaiting (b : Buffer) (t d : Nat) (x : Line) (c : QClass) : b.Keeps (b.setWaiting t d x c) :=
  (b.keeps_modTicket _ _).trans (Buffer.keeps_modDesc _ _ _ fun _ => rfl)

theorem Buffer.keeps_claimTicket (b : Buffer) (d : Nat) (x : Line) (c : QClass) : b.Keeps (b.claimTicket d x c) :=
  .of_same rfl rfl rfl rfl rfl

theorem Buffer.keeps_dropTicket (b : Buffer) (t : Nat) : b.Keeps (b.dropTicket t) := by
  have hdrop := (b.keeps_modTicket t fun v => { v with state := .free }).trans
    (Buffer.keeps_modDesc _ (b.ticket t).desc (fun v => { v with tickets := v.tickets - 1 }) fun _ => rfl)
  rw [Buffer.dropTicket]
  split_ifs
  · exact hdrop.trans (.of_same rfl rfl rfl rfl rfl)
  · exact hdrop

end Sys2Proof.Machine

/-! PROOF. The laws that every step keeps: what it is for one part to keep the laws of another, and which operations of
the blocks do. A step is a sequence of such operations. -/

namespace Sys2Proof.Machine

/-! ### The laws, by what they speak of -/

/-- The law of one receiver (R12, R13, R30). -/
def Receiver.Lawful (r : Receiver) : Prop :=
  r.ins = r.state.inSync ∧
    (r.disposition.isSome = true ↔ r.state = .header ∨ r.state = .body ∨ r.state = .check) ∧
    (r.filling.isSome = true ↔ r.disposition = some .store) ∧
    (r.deadline ≠ .stopped → r.disposition.isSome = true) ∧ r.deadline ≠ .running 0 ∧
    (r.crc.isSome = true ↔ r.disposition.isSome = true) ∧ (r.cell.isSome = true → r.disposition = some .store) ∧
    (r.heldCheck.isSome = true → r.state = .check) ∧ (r.align = none ↔ r.state = .hunt) ∧ r.history.length ≤ 8

/-- The bounds of one transmitter (R108, R115, R179). -/
def Egress.Bounded (e : Egress) : Prop :=
  e.run ≤ 8 ∧ e.gapLeft ≤ 15 ∧ (e.place = 0 ∨ e.place < 8 * e.out.octets.length)

theorem State.receiverLaw_iff (s : State) : s.ReceiverLaw ↔ ∀ x, (s.rx.get x).Lawful := Iff.rfl

theorem State.transmitterBounds_iff (s : State) : s.TransmitterBounds ↔ ∀ x, (s.tx.get x).Bounded := Iff.rfl

section
variable {s t : State}

theorem State.memoryCanonical_of_same (h : t.buf.mem = s.buf.mem) : s.MemoryCanonical → t.MemoryCanonical := by
  simp only [State.MemoryCanonical, h, imp_self]

theorem State.receiverLaw_of_same (h : t.rx = s.rx) : s.ReceiverLaw → t.ReceiverLaw := by
  simp only [State.ReceiverLaw, h, imp_self]

theorem State.configLegal_of_same (h : t.config = s.config) : s.ConfigLegal → t.ConfigLegal := by
  simp only [State.ConfigLegal, h, imp_self]

theorem State.somePermitted_of_same (h : t.config = s.config) : s.SomePermitted → t.SomePermitted := by
  simp only [State.SomePermitted, h, imp_self]

theorem State.transmitterBounds_of_same (h : t.tx = s.tx) : s.TransmitterBounds → t.TransmitterBounds := by
  simp only [State.TransmitterBounds, h, imp_self]

theorem State.emitterBounds_of_same (hinterval : t.emitter.interval = s.emitter.interval)
    (htimer : t.emitter.timer = s.emitter.timer) : s.EmitterBounds → t.EmitterBounds := by
  simp only [State.EmitterBounds, hinterval, htimer, imp_self]

theorem State.tickLaw_of_same (howed : t.owed = s.owed) (hcount : t.divideCount = s.divideCount) :
    s.TickLaw → t.TickLaw := by
  simp only [State.TickLaw, howed, hcount, imp_self]

theorem State.keysUnique_of_same (h : t.routes.slots = s.routes.slots) : s.KeysUnique → t.KeysUnique := by
  simp only [State.KeysUnique, RouteTable.slot, h, imp_self]

theorem State.engineLaw_of_same (hengine : t.engine = s.engine) (hflush : t.unflushed = s.unflushed) :
    s.EngineLaw → t.EngineLaw := by
  simp only [State.EngineLaw, hengine, hflush, imp_self]

/-- The account of the cells where the buffer keeps it, and no receiver fills a descriptor but one that some receiver
filled before, or a free one. -/
theorem State.cellsAccounted_of_buffer (hbuf : s.buf.Keeps t.buf)
    (hfill : ∀ x d, (t.rx.get x).filling = some d → (s.rx.get x).filling = some d ∨ d ∈ s.buf.freeDescs) :
    s.CellsAccounted → t.CellsAccounted := by
  rintro ⟨hlen, hfree, hfilling, hcount⟩
  refine ⟨hbuf.pool.trans hlen, fun d hd => (hbuf.free d hd).elim (hfree d) id,
    fun x d hd => (hfill x d hd).elim (hfilling x d) (hfree d), fun c => ?_⟩
  rw [hbuf.general hlen, hbuf.part hlen]
  exact hcount c

theorem State.cellsAccounted_of_same (hcells : t.buf.freeCells = s.buf.freeCells)
    (hpart : t.buf.freePart = s.buf.freePart) (hfree : t.buf.freeDescs = s.buf.freeDescs)
    (hdescs : t.buf.descs = s.buf.descs) (hrx : t.rx = s.rx) : s.CellsAccounted → t.CellsAccounted := by
  simp only [State.CellsAccounted, Buffer.generalCount, Buffer.partCount, hcells, hpart, hfree, hdescs, hrx, imp_self]

end

/-! ### A part that keeps the laws of another -/

/-- `t` obeys each law that `s` obeys. A field left out is that of a law whose matter the operation leaves as it was. -/
structure State.Keeps (s t : State) : Prop where
  memory : s.MemoryCanonical → t.MemoryCanonical := by exact State.memoryCanonical_of_same (by simp)
  receivers : s.ReceiverLaw → t.ReceiverLaw := by exact State.receiverLaw_of_same (by simp)
  legal : s.ConfigLegal → t.ConfigLegal := by exact State.configLegal_of_same (by simp)
  permitted : s.SomePermitted → t.SomePermitted := by exact State.somePermitted_of_same (by simp)
  transmitters : s.ConfigLegal → s.TransmitterBounds → t.TransmitterBounds := by
    exact fun _ => State.transmitterBounds_of_same (by simp)
  emitter : s.EmitterBounds → t.EmitterBounds := by exact State.emitterBounds_of_same (by simp) (by simp)
  ticks : s.TickLaw → t.TickLaw := by exact State.tickLaw_of_same (by simp) (by simp)
  keys : s.KeysUnique → t.KeysUnique := by exact State.keysUnique_of_same (by simp)
  engine : s.EngineLaw → t.EngineLaw := by exact State.engineLaw_of_same (by simp) (by simp)
  cells : s.CellsAccounted → t.CellsAccounted := by
    exact State.cellsAccounted_of_same (by simp) (by simp) (by simp) (by simp) (by simp)

theorem State.Keeps.refl (s : State) : s.Keeps s := {}

theorem State.Keeps.trans {s t u : State} (hst : s.Keeps t) (htu : t.Keeps u) : s.Keeps u where
  memory h := htu.memory (hst.memory h)
  receivers h := htu.receivers (hst.receivers h)
  legal h := htu.legal (hst.legal h)
  permitted h := htu.permitted (hst.permitted h)
  transmitters hlegal h := htu.transmitters (hst.legal hlegal) (hst.transmitters hlegal h)
  emitter h := htu.emitter (hst.emitter h)
  ticks h := htu.ticks (hst.ticks h)
  keys h := htu.keys (hst.keys h)
  engine h := htu.engine (hst.engine h)
  cells h := htu.cells (hst.cells h)

/-- What every operation of a family keeps, a sequence of them keeps. -/
theorem State.Keeps.foldl {α : Type} {f : State → α → State}
    (hf : ∀ (s : State) (a : α), s.Keeps (f s a)) (l : List α) (s : State) :
    s.Keeps (l.foldl f s) := by
  induction l generalizing s with
  | nil => exact .refl s
  | cons a l ih => exact (hf s a).trans (ih _)

/-! ### Operations on one block of the part -/

theorem State.keeps_inputs (s : State) (pending : List Instr) (edges : List Edge) (ticks : List (List TickTaker))
    (gaps : List (List GapEvent)) (flushes : List (List FlushPart)) (awaits arrivals : List Nat) :
    s.Keeps { s with pending, edges, ticks, gaps, flushes, awaits, arrivals } := {}

theorem State.keeps_self (s : State) (o : Byte) : s.Keeps { s with self := o } := {}

theorem State.keeps_count (s : State) (c : Counters) : s.Keeps { s with count := c } := {}

theorem State.keeps_countRx (s : State) (x : Line) (f : RxCounters → RxCounters) : s.Keeps (s.countRx x f) := {}

theorem State.keeps_countTx (s : State) (x : Line) (f : TxCounters → TxCounters) : s.Keeps (s.countTx x f) := {}

theorem State.keeps_countEngine (s : State) (f : EngineCounters → EngineCounters) : s.Keeps (s.countEngine f) := {}

theorem State.keeps_hear (s : State) (es : List Event) : s.Keeps { s with emitter := s.emitter.hear es } := {}

theorem State.keeps_raise (s : State) (e : Event) : s.Keeps (s.raise e) := s.keeps_hear [e]

theorem State.keeps_buf (s : State) (b : Buffer) (h : s.buf.Keeps b) : s.Keeps { s with buf := b } where
  memory := h.canonical
  cells := State.cellsAccounted_of_buffer h fun _ _ => .inl

theorem State.keeps_withBuf (s : State) (r : Buffer × List Event) (h : s.buf.Keeps r.1) : s.Keeps (s.withBuf r) :=
  (s.keeps_buf r.1 h).trans (State.keeps_hear _ r.2)

theorem State.keeps_modDesc (s : State) (d : Nat) (f : Descriptor → Descriptor) (h : ∀ v, (f v).chain = v.chain) :
    s.Keeps (s.modDesc d f) :=
  s.keeps_buf _ (s.buf.keeps_modDesc d f h)

theorem State.keeps_freeDesc (s : State) (d : Nat) : s.Keeps (s.freeDesc d) :=
  s.keeps_withBuf _ (s.buf.keeps_freeDesc d)

/-- A transmitter changed within its bounds, the configuration being legal. -/
theorem State.keeps_modTx (s : State) (x : Line) (f : Egress → Egress)
    (h : (s.config.get x).gapPairs ≤ 15 → (s.tx.get x).Bounded → (f (s.tx.get x)).Bounded) : s.Keeps (s.modTx x f) where
  transmitters hlegal hbounds := by
    rw [State.transmitterBounds_iff] at hbounds ⊢
    intro y
    by_cases hy : y = x
    · subst hy
      have hgap : (s.config.get y).gapPairs ≤ 15 := by
        have := hlegal y
        simp only [LineConfig.legal, decide_eq_true_eq] at this
        exact this.2.2.1.2
      simpa using h hgap (hbounds y)
    · simpa [PerLine.get_modify_other _ _ hy] using hbounds y

/-- A receiver changed within its law, with no descriptor to fill but its own. -/
theorem State.keeps_modRx (s : State) (x : Line) (f : Receiver → Receiver)
    (hlaw : (s.rx.get x).Lawful → (f (s.rx.get x)).Lawful)
    (hfill : ∀ d, (f (s.rx.get x)).filling = some d → (s.rx.get x).filling = some d ∨ d ∈ s.buf.freeDescs) :
    s.Keeps (s.modRx x f) where
  receivers h := by
    rw [State.receiverLaw_iff] at h ⊢
    intro y
    by_cases hy : y = x
    · subst hy
      simpa using hlaw (h y)
    · simpa [PerLine.get_modify_other _ _ hy] using h y
  cells := State.cellsAccounted_of_buffer (.refl _) fun y d hd => by
    by_cases hy : y = x
    · subst hy
      exact hfill d (by simpa using hd)
    · exact .inl (by simpa [PerLine.get_modify_other _ _ hy] using hd)

/-! ### Slots -/

theorem RouteTable.slot_setSlot_other (r : RouteTable) {n m : Nat} (v : Slot) (h : m ≠ n) :
    (r.setSlot n v).slot m = r.slot m := by
  simp [RouteTable.slot, RouteTable.setSlot, List.getD_eq_getElem?_getD, Ne.symm h]

/-- A slot set is there where the table has that slot. -/
theorem RouteTable.slot_setSlot_same (r : RouteTable) (n : Nat) (v : Slot) :
    (r.setSlot n v).slot n = if n < r.slots.length then v else .free := by
  simp [RouteTable.slot, RouteTable.setSlot, List.getD_eq_getElem?_getD]
  split_ifs <;> simp_all

/-- A slot set keeps the keys distinct where its key, if it has one, is that of the slot before or no ACTIVE slot's. -/
theorem State.keeps_setSlot (s : State) (n : Nat) (v : Slot)
    (h : ∀ e, v = .active e → ∀ m f, s.routes.slot m = .active f → e.keyLine = f.keyLine → e.keyDst = f.keyDst →
      s.KeysUnique → m = n) : s.Keeps { s with routes := s.routes.setSlot n v } where
  keys hu i j e f hi hj hline hdst := by
    have held : ∀ k g, (s.routes.setSlot n v).slot k = .active g →
        (k = n ∧ v = .active g) ∨ (k ≠ n ∧ s.routes.slot k = .active g) := by
      intro k g hk
      by_cases hkn : k = n
      · subst hkn
        rw [RouteTable.slot_setSlot_same] at hk
        split_ifs at hk
        exact .inl ⟨rfl, hk⟩
      · rw [RouteTable.slot_setSlot_other _ _ hkn] at hk
        exact .inr ⟨hkn, hk⟩
    rcases held i e hi with ⟨rfl, he⟩ | ⟨hin, he⟩ <;> rcases held j f hj with ⟨rfl, hf⟩ | ⟨hjn, hf⟩
    · rfl
    · exact absurd (h e he j f hf hline hdst hu) hjn
    · exact absurd (h f hf i e he hline.symm hdst.symm hu) hin
    · exact hu i j e f he hf hline hdst

/-- A slot that is not made ACTIVE. -/
theorem State.keeps_setSlot_of_not_active (s : State) (n : Nat) (v : Slot) (h : ∀ e, v ≠ .active e) :
    s.Keeps { s with routes := s.routes.setSlot n v } :=
  s.keeps_setSlot n v fun e he => absurd he (h e)

/-- An ACTIVE slot whose key stays. -/
theorem State.keeps_setSlot_of_same_key (s : State) (n : Nat) (e e' : Entry) (h : s.routes.slot n = .active e)
    (hline : e'.keyLine = e.keyLine) (hdst : e'.keyDst = e.keyDst) :
    s.Keeps { s with routes := s.routes.setSlot n (.active e') } :=
  s.keeps_setSlot n _ fun g hg m f hm hl hd hu => by
    obtain rfl : e' = g := by simpa using hg
    exact hu m n f e hm h (by rw [← hl, hline]) (by rw [← hd, hdst])

/-! ### The engine -/

theorem State.keeps_engine (s : State) (e : Engine) (h : s.EngineLaw → State.EngineLaw { s with engine := e }) :
    s.Keeps { s with engine := e } where
  engine := h

theorem State.keeps_unflushed (s : State) (u : List FlushPart)
    (h : s.EngineLaw → State.EngineLaw { s with unflushed := u }) : s.Keeps { s with unflushed := u } where
  engine := h

end Sys2Proof.Machine

/-! PROOF. The laws hold after a reset, and the operations of the Notice Emitter, the transmitters, the forwarding unit and
the receivers keep them. -/

namespace Sys2Proof.Machine

/-! ### The laws right after a reset (R12, R56, R120, R140, R178, R180) -/

theorem Receiver.lawful_reset : ({} : Receiver).Lawful := by simp [Receiver.Lawful, RxState.inSync]

theorem Egress.bounded_reset (tdx : Bool) : ({ tdx } : Egress).Bounded := by simp [Egress.Bounded]

theorem State.receiverLaw_reset : State.reset.ReceiverLaw := fun x => by cases x <;> exact Receiver.lawful_reset

theorem State.configLegal_reset : State.reset.ConfigLegal := fun x => by cases x <;> decide

theorem State.somePermitted_reset : State.reset.SomePermitted := ⟨.a, rfl⟩

theorem State.transmitterBounds_reset : State.reset.TransmitterBounds := fun x => by
  cases x <;> exact Egress.bounded_reset true

theorem State.emitterBounds_reset : State.reset.EmitterBounds := ⟨by decide, fun n h => by cases h⟩

theorem State.tickLaw_reset : State.reset.TickLaw := ⟨List.nodup_nil, by decide⟩

/-- No slot of the table after a reset is ACTIVE. -/
theorem State.reset_slot (n : Nat) : State.reset.routes.slot n = .free := by
  simp only [State.reset, RouteTable.slot, List.getD_eq_getElem?_getD, List.getElem?_replicate]
  split_ifs <;> rfl

theorem State.keysUnique_reset : State.reset.KeysUnique := fun n m e f hn => by
  rw [State.reset_slot] at hn
  cases hn

theorem State.engineLaw_reset : State.reset.EngineLaw :=
  ⟨List.nodup_nil, fun h => absurd rfl h, by decide, fun _ => rfl, (nomatch ·), fun _ => (nomatch ·)⟩

theorem generalChains_replicate (n c : Nat) : generalChains (List.replicate n {}) c = 0 := by
  simp [generalChains, List.take_replicate]

theorem partChains_replicate (n c : Nat) : partChains (List.replicate n {}) c = 0 := by
  simp [partChains, List.drop_replicate]

theorem State.cellsAccounted_reset : State.reset.CellsAccounted := by
  refine ⟨List.length_replicate .., fun d hd => List.mem_range.1 hd, fun x d h => ?filling,
    fun c => ⟨?general, ?part⟩⟩
  case filling => cases x <;> cases h
  case general =>
    have hcells : State.reset.buf.freeCells = List.range 494 := by rw [State.reset]
    have hdescs : State.reset.buf.descs = List.replicate 128 {} := by rw [State.reset]
    rw [Buffer.generalCount_eq, hcells, hdescs, generalChains_replicate, List.nodup_range.count]
    simp only [List.mem_range, Nat.add_zero]
  case part =>
    have hpart : State.reset.buf.freePart = List.range' 494 18 := by rw [State.reset]
    have hdescs : State.reset.buf.descs = List.replicate 128 {} := by rw [State.reset]
    rw [Buffer.partCount_eq, hpart, hdescs, partChains_replicate, (List.nodup_range' (s := 494) (n := 18)).count]
    simp only [List.mem_range'_1, Nat.reduceAdd, Nat.add_zero]

/-- Settles O60: each law of the part after a reset, by its values. -/
theorem lawsHoldAtReset : Obligations.LawsHoldAtReset :=
  ⟨rfl, State.receiverLaw_reset, State.configLegal_reset, State.somePermitted_reset, State.transmitterBounds_reset,
    State.emitterBounds_reset, State.tickLaw_reset, State.keysUnique_reset, State.engineLaw_reset,
    State.cellsAccounted_reset⟩

/-- A reset leaves the laws of State.reset, whatever TDx's level and the cell contents that it keeps. -/
theorem State.keeps_resetPart (s : State) : s.Keeps s.resetPart where
  receivers _ := State.receiverLaw_of_same (by simp) State.receiverLaw_reset
  legal _ := State.configLegal_of_same (by simp) State.configLegal_reset
  permitted _ := State.somePermitted_of_same (by simp) State.somePermitted_reset
  transmitters _ _ := by
    rw [State.transmitterBounds_iff]
    intro x
    simpa using Egress.bounded_reset (s.tx.get x).tdx
  emitter _ := State.emitterBounds_of_same (by simp) (by simp) State.emitterBounds_reset
  ticks _ := State.tickLaw_of_same (by simp; rfl) (by simp; rfl) State.tickLaw_reset
  keys _ := State.keysUnique_of_same (by simp) State.keysUnique_reset
  engine _ := State.engineLaw_of_same (by simp) (by simp; rfl) State.engineLaw_reset
  cells _ := State.cellsAccounted_of_same (by simp) (by simp) (by simp) (by simp) (by simp) State.cellsAccounted_reset

/-! ### The Notice Emitter -/

theorem Egress.bounded_enqueue (e : Egress) (c : QClass) (t : Nat) (h : e.Bounded) : (e.enqueue c t).Bounded := by
  cases c <;> exact h

theorem State.keeps_enqueue (s : State) (x : Line) (c : QClass) (t : Nat) :
    s.Keeps (s.modTx x fun e => e.enqueue c t) :=
  s.keeps_modTx x _ fun _ => Egress.bounded_enqueue _ c t

theorem State.keeps_enqueueOwn (s : State) (t d : Nat) (x : Line) : s.Keeps (s.enqueueOwn t d x) :=
  (s.keeps_enqueue x .urgent t).trans
    (State.keeps_buf _ _ ((s.buf.keeps_modTicket t _).trans (Buffer.keeps_modDesc _ d _ fun _ => rfl)))

theorem State.keeps_emitter (s : State) (m : Emitter) (awaits : List Nat)
    (h : s.EmitterBounds → State.EmitterBounds { s with emitter := m, awaits }) :
    s.Keeps { s with emitter := m, awaits } where
  emitter := h

theorem State.keeps_buildNotice (s : State) : s.Keeps s.buildNotice := by
  have hbuf := s.keeps_buf _ ((s.buf.keeps_takeNotice s.emitter.line).trans
    (Buffer.keeps_fillNotice _ s.emitter.station s.self s.emitter.seq s.emitter.pending.records.flatten))
  have hqueued := hbuf.trans (State.keeps_enqueueOwn _ Config.noticeTicket Config.noticeDesc s.emitter.line)
  refine hqueued.trans (State.keeps_emitter _ _ s.awaits.tail ?started)
  rintro ⟨⟨hlow, hhigh⟩, -⟩
  refine ⟨⟨hlow, hhigh⟩, fun n hn => ?_⟩
  obtain rfl : s.emitter.interval = n := by simpa using hn
  exact ⟨Nat.le_trans (by decide) hlow, hhigh⟩

theorem State.keeps_buildIfDue (s : State) : s.Keeps s.buildIfDue := by
  unfold State.buildIfDue
  split_ifs
  · exact s.keeps_buildNotice
  · exact .refl s

theorem State.keeps_takeEvent (s : State) : s.Keeps s.takeEvent := by
  unfold State.takeEvent
  split
  · exact .refl s
  · exact {}

theorem State.keeps_takeEvents (s : State) (n : Nat) : s.Keeps (State.takeEvents n s) := by
  induction n generalizing s with
  | zero => exact s.keeps_buildIfDue
  | succ n ih => exact (s.keeps_buildIfDue.trans (State.keeps_takeEvent _)).trans (ih _)

theorem State.keeps_drain (s : State) : s.Keeps s.drain := s.keeps_takeEvents _

/-! ### Releases -/

theorem State.keeps_release (s : State) (n : Nat) : s.Keeps (s.withRoutes (s.routes.release n)) := by
  refine State.Keeps.trans (t := { s with routes := (s.routes.release n).1 }) ?_ (State.keeps_hear _ _)
  unfold RouteTable.release
  split
  next => exact .refl s
  next e he => exact s.keeps_setSlot_of_same_key n e _ he rfl rfl
  next e he =>
    split_ifs
    · exact s.keeps_setSlot_of_not_active n _ (by simp)
    · exact s.keeps_setSlot_of_not_active n _ (by simp)

theorem State.keeps_releaseBind (s : State) (d : Nat) : s.Keeps (s.releaseBind d) := by
  have hbound := s.keeps_modDesc d (fun v => { v with bound := .none }) fun _ => rfl
  unfold State.releaseBind
  split
  · exact hbound.trans (State.keeps_release _ _)
  · exact hbound
  · exact hbound

theorem State.keeps_releaseTicket (s : State) (t : Nat) (cause : Cause) : s.Keeps (s.releaseTicket t cause) := by
  have hdrop := s.keeps_buf _ (s.buf.keeps_dropTicket t)
  unfold State.releaseTicket
  dsimp only
  split_ifs
  · exact (hdrop.trans (State.keeps_freeDesc _ _)).trans (State.keeps_countEngine _ _)
  · exact hdrop.trans (State.keeps_freeDesc _ _)
  · exact hdrop

/-! ### Transmitters -/

/-- A change at the beginning of a unit, the run count and the gap kept. -/
theorem State.keeps_modTx_of_start (s : State) (x : Line) (f : Egress → Egress)
    (hrun : (f (s.tx.get x)).run ≤ (s.tx.get x).run)
    (hgap : (f (s.tx.get x)).gapLeft ≤ (s.tx.get x).gapLeft) (hplace : (f (s.tx.get x)).place = 0) : s.Keeps (s.modTx x f) :=
  s.keeps_modTx x f fun _ ⟨hr, hg, _⟩ => ⟨Nat.le_trans hrun hr, Nat.le_trans hgap hg, .inl hplace⟩

theorem State.keeps_beginPair (s : State) (x : Line) (h : (s.tx.get x).place = 0) : s.Keeps (s.beginPair x) :=
  s.keeps_modTx_of_start x _ (Nat.le_refl _) (Nat.le_refl _) h

theorem State.keeps_toFill (s : State) (x : Line) (h : (s.tx.get x).place = 0) : s.Keeps (s.toFill x) :=
  (s.keeps_modTx_of_start x (fun e => { e with state := .fill }) (Nat.le_refl _) (Nat.le_refl _) h).trans
    (State.keeps_beginPair _ x (by simpa using h))

/-- A block chosen by R108 leaves the run count at 8 or less. -/
theorem Egress.runAfter_choose_le (e : Egress) (c : QClass) (t : Nat) (h : e.clearRun.choose = some (c, t)) :
    runAfter e.clearRun.run c ≤ 8 := by
  cases c with
  | normal => exact Nat.zero_le 8
  | urgent =>
    by_cases hn : e.normal = []
    · simp [Egress.clearRun, hn, runAfter]
    · have hkept : e.clearRun = e := if_neg hn
      rw [hkept] at h ⊢
      cases hu : e.urgent with
      | nil =>
        cases hq : e.normal <;> simp [Egress.choose, hu, hq] at h
      | cons u us =>
        obtain ⟨n, ns, hq⟩ := List.exists_cons_of_ne_nil hn
        simp only [Egress.choose, hu, hq] at h
        split_ifs at h with hlt
        · exact hlt
        · simp at h

theorem Egress.clearRun_kept (e : Egress) :
    e.clearRun.place = e.place ∧ e.clearRun.gapLeft = e.gapLeft ∧ e.clearRun.run ≤ e.run := by
  unfold Egress.clearRun
  split_ifs <;> simp

theorem Egress.dequeue_kept (e : Egress) (c : QClass) :
    (e.dequeue c).place = e.place ∧ (e.dequeue c).gapLeft = e.gapLeft ∧ (e.dequeue c).run = e.run := by
  cases c <;> exact ⟨rfl, rfl, rfl⟩

theorem State.keeps_startSending (s : State) (x : Line) (c : QClass) (t : Nat) (hplace : (s.tx.get x).place = 0)
    (hrun : runAfter (s.tx.get x).run c ≤ 8) : s.Keeps (s.startSending x c t) :=
  (s.keeps_buf _ (s.buf.keeps_modTicket t _)).trans
    (State.keeps_modTx _ x _ fun _ ⟨_, hgap, _⟩ => ⟨hrun, hgap, .inl hplace⟩)

theorem State.keeps_dropStale (s : State) (x : Line) (t : Nat) : s.Keeps (s.dropStale x t) :=
  (s.keeps_releaseTicket t .staleDrop).trans (State.keeps_countTx _ x _)

theorem State.keeps_selectLoop (x : Line) (n : Nat) (hold : Bool) (further : List Bool) (s : State)
    (hplace : (s.tx.get x).place = 0) : s.Keeps (State.selectLoop x n hold further s) := by
  induction n generalizing hold further s with
  | zero => exact s.keeps_toFill x hplace
  | succ n ih =>
    obtain ⟨hplace', hgap', hrun'⟩ := (s.tx.get x).clearRun_kept
    have hcleared := s.keeps_modTx_of_start x Egress.clearRun hrun' (by omega) (by omega)
    rw [State.selectLoop]
    split_ifs
    · exact s.keeps_toFill x hplace
    · dsimp only
      split
      next => exact hcleared.trans (State.keeps_toFill _ x (by simpa [hplace'] using hplace))
      next c t hchoose =>
        have hchosen : (s.tx.get x).clearRun.choose = some (c, t) := by simpa using hchoose
        obtain ⟨hplace'', hgap'', hrun''⟩ := (s.tx.get x).clearRun.dequeue_kept c
        have htaken : s.Keeps ((s.modTx x Egress.clearRun).modTx x fun e => e.dequeue c) := by
          refine hcleared.trans (State.keeps_modTx_of_start _ x _ ?_ ?_ ?_) <;> simp <;> omega
        have hat : ((((s.modTx x Egress.clearRun).modTx x fun e => e.dequeue c)).tx.get x).place = 0 := by
          simp
          omega
        split_ifs
        · exact (htaken.trans (State.keeps_dropStale _ x t)).trans (ih _ _ _ (by simpa using hat))
        · refine htaken.trans (State.keeps_startSending _ x c t hat ?_)
          have := (s.tx.get x).runAfter_choose_le c t hchosen
          simpa [hrun''] using this

theorem State.keeps_select (s : State) (x : Line) (hold : Bool) (further : List Bool) (hplace : (s.tx.get x).place = 0) :
    s.Keeps (s.select x hold further) :=
  State.keeps_selectLoop x _ hold further s hplace

theorem State.keeps_endFillPair (s : State) (x : Line) (hold : Bool) (further : List Bool) :
    s.Keeps (s.endFillPair x hold further) := by
  unfold State.endFillPair
  split
  · exact (s.keeps_modTx_of_start x Egress.unitDone (Nat.le_refl _) (Nat.le_refl _) rfl).trans
      (State.keeps_select _ x hold further (by simp [Egress.unitDone]))
  · exact .refl s
  · exact .refl s

theorem State.keeps_endGapPair (s : State) (x : Line) (hold : Bool) (further : List Bool) :
    s.Keeps (s.endGapPair x hold further) := by
  have hdone := s.keeps_modTx_of_start x (fun e => { e.unitDone with gapLeft := e.gapLeft - 1 }) (Nat.le_refl _)
    (Nat.sub_le _ _) rfl
  unfold State.endGapPair
  split
  · dsimp only
    split_ifs
    · exact hdone.trans (State.keeps_select _ x hold further (by simp [Egress.unitDone]))
    · exact hdone.trans (State.keeps_beginPair _ x (by simp [Egress.unitDone]))
  · exact .refl s
  · exact .refl s

theorem State.keeps_endBlockSent (s : State) (x : Line) : s.Keeps (s.endBlockSent x) := by
  unfold State.endBlockSent
  split
  next t _ _ =>
    dsimp only
    refine (((s.keeps_releaseTicket t .sent).trans (State.keeps_countTx _ x _)).trans
      (State.keeps_modTx _ x _ fun hpairs hbounded => ?_)).trans (State.keeps_beginPair _ x (by simp [Egress.unitDone]))
    exact ⟨hbounded.1, by simpa using hpairs, .inl rfl⟩
  next => exact .refl s

theorem State.keeps_endUnit (s : State) (x : Line) (hold : Bool) (further : List Bool) :
    s.Keeps (s.endUnit x hold further) := by
  unfold State.endUnit
  split
  · exact s.keeps_endFillPair x hold further
  · exact s.keeps_endGapPair x hold further
  · exact s.keeps_endBlockSent x

theorem State.keeps_tcEdge (s : State) (x : Line) (hold : Bool) (further : List Bool) :
    s.Keeps (s.tcEdge x hold further) := by
  unfold State.tcEdge
  split_ifs with hmore
  · exact s.keeps_modTx x _ fun _ ⟨hrun, hgap, _⟩ => ⟨hrun, hgap, .inr hmore⟩
  · exact s.keeps_endUnit x hold further

theorem State.keeps_takeBeforeReply (s : State) (e : GapEvent) : s.Keeps (s.takeBeforeReply e) := by
  cases e with
  | sent y => exact s.keeps_endBlockSent y
  | notice => exact s.keeps_drain
  | reply => exact .refl s

theorem State.keeps_passReplyGap (s : State) : s.Keeps s.passReplyGap :=
  (s.keeps_inputs _ _ _ s.gaps.tail _ _ _).trans (State.Keeps.foldl State.keeps_takeBeforeReply _ _)

theorem State.keeps_flushQueue (s : State) (x : Line) (c : QClass) : s.Keeps (s.flushQueue x c) := by
  unfold State.flushQueue
  refine ((s.keeps_modTx x _ fun _ h => ?_).trans
    (State.Keeps.foldl (fun s t => s.keeps_releaseTicket t .flush) _ _)).trans (State.keeps_countTx _ x _)
  cases c <;> exact h

theorem State.keeps_flushClasses (s : State) (x : Line) (cs : List QClass) : s.Keeps (s.flushClasses x cs) :=
  State.Keeps.foldl (fun s c => s.keeps_flushQueue x c) cs s

end Sys2Proof.Machine

/-! PROOF. The forwarding unit and the receivers keep the laws. -/

namespace Sys2Proof.Machine

/-! ### What a block holds goes back -/

theorem State.keeps_returnBlock (s : State) (x : Line) : s.Keeps (s.returnBlock x) := by
  unfold State.returnBlock
  split
  · exact (s.keeps_releaseBind _).trans (State.keeps_freeDesc _ _)
  · exact .refl s

/-- A receiver that fills a descriptor stores its block. -/
theorem Receiver.Lawful.stores {r : Receiver} (h : r.Lawful) (hfill : r.filling.isSome = true) :
    r.disposition = some .store := by
  obtain ⟨-, -, hfilling, -⟩ := h
  exact hfilling.1 hfill

/-- The block's items are absent outside a block. -/
theorem Receiver.Lawful.outside {r : Receiver} (h : r.Lawful)
    (hstate : ¬(r.state = .header ∨ r.state = .body ∨ r.state = .check)) : r.outside := by
  obtain ⟨-, hdisp, hfill, hdeadline, -, hcrc, hcell, hheld, -⟩ := h
  have hnone : r.disposition = none := by
    cases hd : r.disposition with
    | none => rfl
    | some d => exact absurd (hdisp.1 (by rw [hd]; rfl)) hstate
  rw [hnone] at hfill hdeadline hcrc hcell
  refine ⟨hnone, ?_, ?_, ?_, ?_, ?_⟩
  · simpa using hcrc
  · by_contra hne
    exact hstate (.inr (.inr (hheld (Option.isSome_iff_ne_none.2 hne))))
  · simpa using hfill
  · simpa using hcell
  · simpa using hdeadline

theorem Receiver.lawful_toSink {r : Receiver} (h : r.Lawful) (hfill : r.filling.isSome = true) : r.toSink.Lawful := by
  have hstore := h.stores hfill
  simp_all [Receiver.Lawful, Receiver.toSink]

/-- A receiver outside a block is lawful in any state outside a block, its alignment fixed but in HUNT. -/
theorem Receiver.lawful_of_outside {r : Receiver} (h : r.outside) (hins : r.ins = r.state.inSync)
    (hstate : ¬(r.state = .header ∨ r.state = .body ∨ r.state = .check)) (halign : r.align = none ↔ r.state = .hunt)
    (hhistory : r.history.length ≤ 8) : r.Lawful := by
  obtain ⟨hdisp, hcrc, hheld, hfill, hcell, hdeadline⟩ := h
  simp_all [Receiver.Lawful]

theorem Receiver.lawful_hunting {r : Receiver} (h : r.Lawful) : r.hunting.Lawful := by
  obtain ⟨-, -, -, -, -, -, -, -, -, hhistory⟩ := h
  exact Receiver.lawful_of_outside ⟨rfl, rfl, rfl, rfl, rfl, rfl⟩ rfl (by simp [Receiver.hunting])
    ⟨fun _ => rfl, fun _ => rfl⟩ hhistory

theorem State.keeps_sinkBlock (s : State) (x : Line) (hfill : (s.rx.get x).filling.isSome = true) :
    s.Keeps (s.sinkBlock x) :=
  (s.keeps_returnBlock x).trans (State.keeps_modRx _ x _ (fun h => Receiver.lawful_toSink h (by simpa using hfill))
    fun _ h => (nomatch h))

theorem State.keeps_toHunt (s : State) (x : Line) : s.Keeps (s.toHunt x) := by
  rw [State.toHunt_eq]
  exact (s.keeps_returnBlock x).trans (State.keeps_modRx _ x _ Receiver.lawful_hunting fun _ h => (nomatch h))

theorem State.keeps_loseSync (s : State) (x : Line) : s.Keeps (s.loseSync x) :=
  ((s.keeps_toHunt x).trans (State.keeps_countRx _ x _)).trans (State.keeps_raise _ _)

theorem State.keeps_restart (s : State) (x : Line) : s.Keeps (s.restart x) := by
  unfold State.restart
  split_ifs
  · exact (s.keeps_toHunt x).trans (State.keeps_raise _ _)
  · exact s.keeps_toHunt x

/-! ### The forwarding unit -/

theorem Descriptor.capture_chain (v : Descriptor) (n : Nat) (e : Entry) : (v.capture n e).chain = v.chain := by
  unfold Descriptor.capture
  split <;> rfl

theorem Descriptor.captureDefault_chain (v : Descriptor) (x : Line) (r : DefaultRoute) :
    (v.captureDefault x r).chain = v.chain := by
  unfold Descriptor.captureDefault
  split <;> rfl

theorem State.keeps_lookup (s : State) (x : Line) (d : Nat) : s.Keeps (s.lookup x d) := by
  unfold State.lookup
  split
  next n _ =>
    split
    next e he =>
      exact (s.keeps_setSlot_of_same_key n e _ he (by rfl) (by rfl)).trans
        (State.keeps_modDesc _ d _ fun v => v.capture_chain n e)
    · exact .refl s
    · exact .refl s
  next =>
    exact (s.keeps_modDesc d _ fun v => v.captureDefault_chain x _).trans (State.keeps_countRx _ x _)

theorem State.keeps_decideBlock (s : State) (x : Line) (d : Nat) (hfill : (s.rx.get x).filling.isSome = true) :
    s.Keeps (s.decideBlock x d) := by
  have hcounted (f : RxCounters → RxCounters) : s.Keeps ((s.countRx x f).sinkBlock x) :=
    (s.keeps_countRx x f).trans (State.keeps_sinkBlock _ x (by simpa using hfill))
  unfold State.decideBlock
  dsimp only
  split_ifs
  · exact s.keeps_modDesc d _ fun _ => rfl
  · exact hcounted _
  · exact hcounted _
  · exact (s.keeps_lookup x d).trans (State.keeps_sinkBlock _ x (by simpa using hfill))
  · exact s.keeps_lookup x d

theorem Entry.evaluate_key (e : Entry) (seq : Byte) (len : Nat) :
    (e.evaluate seq len).2.keyLine = e.keyLine ∧ (e.evaluate seq len).2.keyDst = e.keyDst := by
  unfold Entry.evaluate
  split
  · exact ⟨rfl, rfl⟩
  · dsimp only
    split_ifs <;> exact ⟨rfl, rfl⟩

theorem State.keeps_report (s : State) (x : Line) (d : Nat) : s.Keeps (s.report x d).2 := by
  unfold State.report
  dsimp only
  split
  next n _ =>
    split
    next e he =>
      obtain ⟨hline, hdst⟩ := e.evaluate_key (s.buf.desc d).seq (s.buf.desc d).len
      exact (s.keeps_setSlot_of_same_key n e _ he hline hdst).trans (State.keeps_releaseBind _ d)
    · exact (s.keeps_countRx x _).trans (State.keeps_releaseBind _ d)
    · exact s.keeps_releaseBind d
  · exact s.keeps_releaseBind d
  · exact s.keeps_releaseBind d

theorem State.keeps_admitCopy (s : State) (d : Nat) (x : Line) : s.Keeps (s.admitCopy d x) := by
  unfold State.admitCopy
  dsimp only
  split
  · exact s.keeps_countTx x _
  next t _ _ =>
    have hclaimed := s.buf.keeps_claimTicket d x (s.buf.desc d).cls
    have hwithdrawn : s.buf.Keeps ((s.buf.claimTicket d x (s.buf.desc d).cls).withdrawTicket t) :=
      .of_same rfl rfl rfl rfl rfl
    split_ifs
    · exact (s.keeps_buf _ hwithdrawn).trans (State.keeps_countTx _ x _)
    · exact (s.keeps_buf _ (hclaimed.trans (Buffer.keeps_setWaiting _ t d x _))).trans (State.keeps_enqueue _ x _ t)

theorem State.keeps_offer (s : State) (x : Line) (d : Nat) : s.Keeps (s.offer x d) := by
  unfold State.offer
  split_ifs with hroom
  · refine State.Keeps.trans (s.keeps_modDesc d _ fun _ => by rfl) (State.keeps_engine _ _ ?_)
    rintro ⟨hnodup, hflush, -, hrest⟩
    have hlen : (s.engine.queue ++ [d]).length ≤ 4 := by
      rw [List.length_append, List.length_singleton]
      exact hroom
    exact ⟨hnodup, hflush, hlen, hrest⟩
  · exact ((s.keeps_freeDesc d).trans (State.keeps_countEngine _ _)).trans (State.keeps_raise _ _)

/-! ### The session's end, and the gaps of a dispatch -/

theorem State.keeps_writeResult (s : State) (n : Nat) (os : List Byte) : s.Keeps (s.writeResult n os) :=
  s.keeps_buf _ (s.buf.keeps_putOctets _ _ _ (by decide) (by decide))

/-- A session ends where no FLUSH-ALL has parts to make. -/
theorem State.keeps_endSession (s : State) (ss : Session) (h : s.unflushed = []) : s.Keeps (s.endSession ss) := by
  unfold State.endSession
  dsimp only
  refine ((((((s.keeps_writeResult _ _).trans (State.keeps_buf _ _ (Buffer.keeps_finishReply _ _ _ _ _))).trans
    (State.keeps_freeDesc _ _)).trans (State.keeps_passReplyGap _)).trans (State.keeps_enqueueOwn _ _ _ _))).trans
    (State.keeps_engine _ _ ?_)
  have hleft (e : EngineState) : (if e = .executing then .idle else e) ≠ EngineState.executing := by
    cases e <;> decide
  rintro ⟨hnodup, -, hqueue, -⟩
  exact ⟨hnodup, fun hne => absurd (by simpa using h) hne, hqueue, fun _ => rfl, fun hexec => absurd hexec (hleft _),
    fun _ => (nomatch ·)⟩

theorem State.keeps_endIfOver (s : State) : s.Keeps s.endIfOver := by
  unfold State.endIfOver
  split
  next ss _ =>
    split_ifs with hopen
    · exact .refl s
    · rw [not_or, not_not] at hopen
      exact s.keeps_endSession ss hopen.2
  next => exact .refl s

theorem State.keeps_takeGapEvent (s : State) (e : GapEvent) : s.Keeps (s.takeGapEvent e) := by
  cases e with
  | sent y => exact s.keeps_endBlockSent y
  | notice => exact s.keeps_drain
  | reply => exact s.keeps_endIfOver

theorem State.keeps_passGap (s : State) : s.Keeps s.passGap :=
  (s.keeps_inputs _ _ _ s.gaps.tail _ _ _).trans (State.Keeps.foldl State.keeps_takeGapEvent _ _)

theorem State.keeps_admitCopies (s : State) (d : Nat) (xs : List Line) : s.Keeps (State.admitCopies d xs s) := by
  induction xs generalizing s with
  | nil => exact .refl s
  | cons x xs ih => exact (s.keeps_passGap.trans (State.keeps_admitCopy _ d x)).trans (ih _)

theorem State.keeps_admitBlock (s : State) (d : Nat) : s.Keeps (s.admitBlock d) := by
  have hcopies := s.keeps_admitCopies d (s.buf.desc d).egress.members
  unfold State.admitBlock
  dsimp only
  split_ifs
  · exact hcopies.trans (State.keeps_freeDesc _ d)
  · exact hcopies.trans (State.keeps_modDesc _ d _ fun _ => rfl)

theorem State.keeps_dispatchStored (s : State) (x : Line) (d : Nat) : s.Keeps (s.dispatchStored x d) := by
  have hreport := s.keeps_report x d
  unfold State.dispatchStored
  split_ifs
  · exact s.keeps_offer x d
  · split
    next s1 heq => exact (heq ▸ hreport).trans (State.keeps_freeDesc s1 d)
    next s1 heq => exact (heq ▸ hreport).trans (State.keeps_admitBlock s1 d)
    next s1 heq => exact (heq ▸ hreport).trans (State.keeps_admitBlock s1 d)

theorem State.keeps_dispatch (s : State) (x : Line) (len : Nat) : s.Keeps (s.dispatch x len) := by
  unfold State.dispatch
  dsimp only
  split
  · exact (s.keeps_countRx x _).trans (State.keeps_dispatchStored _ x _)
  · exact s.keeps_countRx x _

/-! ### Synchronism -/

/-- The comparison of HUNT is made where no alignment is fixed. -/
theorem State.keeps_huntCompare (s : State) (x : Line) (h : (s.rx.get x).align = none) : s.Keeps (s.huntCompare x) := by
  unfold State.huntCompare
  dsimp only
  split_ifs
  · refine s.keeps_modRx x _ (fun hlaw => ?_) fun _ => .inl
    have ⟨_, _, _, _, _, _, _, _, halign, hhistory⟩ := hlaw
    have hhunt := halign.1 h
    exact Receiver.lawful_of_outside (r := { (s.rx.get x).enter .confirm with align := some 0 })
      (hlaw.outside (by simp [hhunt])) rfl (by simp [Receiver.enter]) (by simp [Receiver.enter]) hhistory
  · exact .refl s

/-- A receiver outside a block enters a state outside a block, with its alignment fixed but in HUNT. -/
theorem State.keeps_enter (s : State) (x : Line) (st : RxState) (align : Option Nat)
    (hold : ¬((s.rx.get x).state = .header ∨ (s.rx.get x).state = .body ∨ (s.rx.get x).state = .check))
    (hnew : ¬(st = .header ∨ st = .body ∨ st = .check)) (halign : align = none ↔ st = .hunt) :
    s.Keeps (s.modRx x fun r => { r.enter st with align }) := by
  refine s.keeps_modRx x _ (fun hlaw => ?_) fun _ => .inl
  have ⟨_, _, _, _, _, _, _, _, _, hhistory⟩ := hlaw
  exact Receiver.lawful_of_outside (r := { (s.rx.get x).enter st with align }) (hlaw.outside hold) rfl hnew halign
    hhistory

/-- As keeps_enter, the alignment staying fixed. -/
theorem State.keeps_enter_aligned (s : State) (x : Line) (st : RxState) (hhunt : (s.rx.get x).state ≠ .hunt)
    (hold : ¬((s.rx.get x).state = .header ∨ (s.rx.get x).state = .body ∨ (s.rx.get x).state = .check))
    (hnew : ¬(st = .hunt ∨ st = .header ∨ st = .body ∨ st = .check)) :
    s.Keeps (s.modRx x fun r => r.enter st) := by
  refine s.keeps_modRx x _ (fun hlaw => ?_) fun _ => .inl
  have ⟨_, _, _, _, _, _, _, _, halign, hhistory⟩ := hlaw
  rw [not_or] at hnew
  exact Receiver.lawful_of_outside (r := (s.rx.get x).enter st) (hlaw.outside hold) rfl hnew.2
    ⟨fun h => absurd (halign.1 h) hhunt, fun h => absurd h hnew.1⟩ hhistory

theorem State.toHunt_align (s : State) (x : Line) : ((s.toHunt x).rx.get x).align = none := by
  simp [State.toHunt_eq, Receiver.hunting]

theorem State.loseSync_align (s : State) (x : Line) : ((s.loseSync x).rx.get x).align = none := by
  simpa [State.loseSync] using s.toHunt_align x

theorem State.keeps_loseSync_compare (s : State) (x : Line) : s.Keeps ((s.loseSync x).huntCompare x) :=
  (s.keeps_loseSync x).trans (State.keeps_huntCompare _ x (s.loseSync_align x))

theorem State.keeps_takeConfirm (s : State) (x : Line) (o : Byte) (h : (s.rx.get x).state = .confirm) :
    s.Keeps (s.takeConfirm x o) := by
  unfold State.takeConfirm
  split_ifs
  · exact ((s.keeps_enter_aligned x .gap (by simp [h]) (by simp [h]) (by simp)).trans
      (State.keeps_countRx _ x _)).trans (State.keeps_raise _ _)
  · exact (s.keeps_enter x .hunt none (by simp [h]) (by simp) (by simp)).trans
      (State.keeps_huntCompare _ x (by simp))

/-! ### Blocks -/

/-- The receiver once BLK has begun a block (R20): its descriptor, if one was free. -/
def Receiver.begun (r : Receiver) (limit : Nat) (disposition : Disposition) (filling : Option Nat) : Receiver :=
  { r with
    state := .header, ins := true, header := [], position := 0, crc := some 0xFFFF, heldCheck := none, cell := none
    deadline := if limit = 0 then .stopped else .running limit, disposition := some disposition, filling }

theorem State.beginBlock_of_cons (s : State) (x : Line) (d : Nat) (rest : List Nat) (h : s.buf.freeDescs = d :: rest) :
    s.beginBlock x =
      { s.modRx x (fun r => r.begun (s.config.get x).deadline .store (some d)) with buf := s.buf.claimDesc x } := by
  unfold State.beginBlock
  rw [h]
  simp only [State.modRx, PerLine.modify_modify]
  rfl

theorem State.beginBlock_of_nil (s : State) (x : Line) (h : s.buf.freeDescs = []) :
    s.beginBlock x =
      (s.modRx x fun r => r.begun (s.config.get x).deadline .sink none).countRx x fun c =>
        { c with descExhausted := satAdd c.descExhausted 1 } := by
  unfold State.beginBlock
  rw [h]
  simp only [State.modRx, PerLine.modify_modify]
  rfl

theorem Receiver.lawful_begun {r : Receiver} (h : r.Lawful) (hstate : r.state = .gap) (limit : Nat) (disposition : Disposition)
    (filling : Option Nat) (hfill : filling.isSome = true ↔ disposition = .store) :
    (r.begun limit disposition filling).Lawful := by
  obtain ⟨-, -, -, -, -, -, -, -, halign, hhistory⟩ := h
  have haligned : r.align ≠ none := fun hnone => by simp [halign.1 hnone] at hstate
  have hlimit : (if limit = 0 then Deadline.stopped else .running limit) ≠ .running 0 := by
    split_ifs with hzero
    · simp
    · simpa using hzero
  exact ⟨rfl, by simp [Receiver.begun], by simpa [Receiver.begun] using hfill, by simp [Receiver.begun], hlimit,
    by simp [Receiver.begun], by simp [Receiver.begun], by simp [Receiver.begun],
    ⟨fun hnone => absurd hnone haligned, (nomatch ·)⟩, hhistory⟩

theorem State.keeps_beginBlock (s : State) (x : Line) (h : (s.rx.get x).state = .gap) : s.Keeps (s.beginBlock x) := by
  cases hfree : s.buf.freeDescs with
  | nil =>
    rw [s.beginBlock_of_nil x hfree]
    exact (s.keeps_modRx x _ (fun hlaw => Receiver.lawful_begun hlaw h _ _ _ (by simp)) (by simp [Receiver.begun])).trans
      (State.keeps_countRx _ x _)
  | cons n rest =>
    rw [s.beginBlock_of_cons x n rest hfree]
    refine (s.keeps_modRx x _ (fun hlaw => Receiver.lawful_begun hlaw h _ _ _ (by simp)) fun d hd => ?_).trans
      (State.keeps_buf _ _ (s.buf.keeps_claimDesc x))
    obtain rfl : n = d := by simpa [Receiver.begun] using hd
    exact .inr (by simp [hfree])

theorem State.keeps_writeCurrent (s : State) (x : Line) (c : CellFill) (o : Byte)
    (hfill : (s.rx.get x).filling.isSome = true) : s.Keeps (s.writeCurrent x c o) := by
  refine (s.keeps_buf _ (s.buf.keeps_write _ o)).trans (State.keeps_modRx _ x _ (fun hlaw => ?_) fun _ => .inl)
  have hstore := hlaw.stores hfill
  simp_all [Receiver.Lawful]

/-- The head general cell joins the chain of the descriptor that a receiver fills (R21). -/
theorem State.keeps_claimCell (s : State) (x : Line) (d c : Nat) (rest : List Nat)
    (hfill : (s.rx.get x).filling = some d) (hfree : s.buf.freeCells = c :: rest) :
    s.Keeps { s.withBuf s.buf.claimCell with buf := s.buf.claimCell.1.appendCell d c } where
  memory := State.memoryCanonical_of_same (by simp [Buffer.claimCell, Buffer.appendCell])
  keys := State.keysUnique_of_same rfl
  cells haccount := by
    have hd : d < 126 := haccount.2.2.1 x d hfill
    have hmoved : s.buf.Keeps (s.buf.claimCell.1.appendCell d c) :=
      (s.buf.keeps_moveCell d c rest hd hfree).trans (by
        apply Buffer.Keeps.of_same <;> simp [Buffer.claimCell, Buffer.appendCell, Buffer.modDesc, hfree])
    exact State.cellsAccounted_of_buffer hmoved (fun _ _ => .inl) haccount

theorem State.keeps_storeInNew (s : State) (x : Line) (d : Nat) (o : Byte) (hfill : (s.rx.get x).filling = some d) :
    s.Keeps (s.storeInNew x d o) := by
  unfold State.storeInNew
  split
  next c rest hfree =>
    exact (s.keeps_claimCell x d c rest hfill hfree).trans (State.keeps_writeCurrent _ x _ o (by simp [hfill]))
  next => exact (s.keeps_sinkBlock x (by simp [hfill])).trans (State.keeps_countRx _ x _)

theorem State.keeps_storeOctet (s : State) (x : Line) (o : Byte) : s.Keeps (s.storeOctet x o) := by
  unfold State.storeOctet
  split
  next => exact .refl s
  next d c hfill _ =>
    split_ifs
    · exact s.keeps_writeCurrent x c o (by simp [hfill])
    · exact s.keeps_storeInNew x d o hfill
  next d hfill _ => exact s.keeps_storeInNew x d o hfill

/-- The items that storage leaves: state, alignment and check. -/
theorem State.storeOctet_rx (s : State) (x : Line) (o : Byte) :
    ((s.storeOctet x o).rx.get x).state = (s.rx.get x).state ∧
      ((s.storeOctet x o).rx.get x).header = (s.rx.get x).header ∧
      ((s.storeOctet x o).rx.get x).position = (s.rx.get x).position := by
  have hnew (d : Nat) : ((s.storeInNew x d o).rx.get x).state = (s.rx.get x).state ∧
      ((s.storeInNew x d o).rx.get x).header = (s.rx.get x).header ∧
      ((s.storeInNew x d o).rx.get x).position = (s.rx.get x).position := by
    unfold State.storeInNew
    split <;> simp [State.writeCurrent, State.sinkBlock, Receiver.toSink]
  unfold State.storeOctet
  split
  · simp
  · split_ifs
    · simp [State.writeCurrent]
    · exact hnew _
  · exact hnew _

theorem State.keeps_placeHeader (s : State) (x : Line) (o : Byte) : s.Keeps (s.placeHeader x o) := by
  refine (s.keeps_modRx x _ (fun hlaw => ?_) fun _ => .inl).trans (State.keeps_storeOctet _ x o)
  simpa [Receiver.Lawful, Receiver.feed] using hlaw

theorem State.placeHeader_state (s : State) (x : Line) (o : Byte) :
    ((s.placeHeader x o).rx.get x).state = (s.rx.get x).state := by
  rw [State.placeHeader, (State.storeOctet_rx _ x o).1]
  simp [Receiver.feed]

theorem State.decideBlock_state (s : State) (x : Line) (d : Nat) :
    ((s.decideBlock x d).rx.get x).state = (s.rx.get x).state := by
  unfold State.decideBlock
  dsimp only
  split_ifs <;> simp [State.sinkBlock, Receiver.toSink]

/-- Within a block the receiver goes on to BODY or CHECK. -/
theorem State.keeps_enter_within (s : State) (x : Line) (st : RxState) (position : Nat)
    (hold : (s.rx.get x).state = .header ∨ (s.rx.get x).state = .body) (hnew : st = .body ∨ st = .check) :
    s.Keeps (s.modRx x fun r => { r.enter st with position }) := by
  refine s.keeps_modRx x _ (fun hlaw => ?_) fun _ => .inl
  rcases hold with hold | hold <;> rcases hnew with rfl | rfl <;>
    simp_all [Receiver.Lawful, Receiver.enter, RxState.inSync]

theorem State.keeps_completeHeader (s : State) (x : Line) (o : Byte) (h : (s.rx.get x).state = .header) :
    s.Keeps (s.completeHeader x o) := by
  have hplaced := s.keeps_placeHeader x o
  have hstate := (s.placeHeader_state x o).trans h
  have hnext (n : Nat) : (if n = 0 then RxState.check else .body) = .body ∨
      (if n = 0 then RxState.check else .body) = .check := by
    split_ifs <;> simp
  have hwritten (d : Nat) (header : List Byte) (len : Nat) :
      s.Keeps ((s.placeHeader x o).modDesc d fun v => v.withHeader header len) :=
    hplaced.trans (State.keeps_modDesc _ d _ fun _ => rfl)
  unfold State.completeHeader
  dsimp only
  split
  · exact (hplaced.trans (State.keeps_countRx _ x _)).trans (State.keeps_loseSync_compare _ x)
  · split
    next d hfill =>
      refine ((hwritten d _ _).trans (State.keeps_decideBlock _ x d (by simp [hfill]))).trans
        (State.keeps_enter_within _ x _ 0 (.inl ?_) (hnext _))
      rw [State.decideBlock_state]
      simpa using hstate
    next => exact hplaced.trans (State.keeps_enter_within _ x _ 0 (.inl hstate) (hnext _))

theorem State.keeps_takeText (s : State) (x : Line) (o : Byte) (h : (s.rx.get x).state = .body) :
    s.Keeps (s.takeText x o) := by
  have hfed : s.Keeps ((s.modRx x fun r => { r.feed o with position := r.position + 1 }).storeOctet x o) := by
    refine (s.keeps_modRx x _ (fun hlaw => ?_) fun _ => .inl).trans (State.keeps_storeOctet _ x o)
    simpa [Receiver.Lawful, Receiver.feed] using hlaw
  unfold State.takeText
  dsimp only
  split_ifs
  · refine hfed.trans (State.keeps_enter_within _ x .check 0 (.inr ?_) (.inr rfl))
    rw [(State.storeOctet_rx _ x o).1]
    simpa [Receiver.feed] using h
  · exact hfed

theorem State.keeps_takeCheck (s : State) (x : Line) (o : Byte) (h : (s.rx.get x).state = .check) :
    s.Keeps (s.takeCheck x o) := by
  refine s.keeps_modRx x _ (fun hlaw => ?_) fun _ => .inl
  simp_all [Receiver.Lawful]

theorem State.keeps_completeBlock (s : State) (x : Line) (o : Byte) (h : (s.rx.get x).state = .check) :
    s.Keeps (s.completeBlock x o) := by
  have hstopped : s.Keeps (s.modRx x fun r => { r with position := 2, deadline := .stopped }) := by
    refine s.keeps_modRx x _ (fun hlaw => ?_) fun _ => .inl
    simp_all [Receiver.Lawful]
  have hended (t : State) (ht : (t.rx.get x).state = .check) :
      t.Keeps ((t.modRx x Receiver.endBlock).modRx x fun q => q.enter .gap) := by
    simp only [State.modRx, PerLine.modify_modify]
    refine t.keeps_modRx x _ (fun hlaw => ?_) fun _ hd => (nomatch hd)
    obtain ⟨-, -, -, -, -, -, -, -, halign, hhistory⟩ := hlaw
    refine Receiver.lawful_of_outside ⟨rfl, rfl, rfl, rfl, rfl, rfl⟩ rfl (by simp [Receiver.enter]) ⟨fun hnone => ?_, (nomatch ·)⟩
      hhistory
    simp [halign.1 hnone] at ht
  unfold State.completeBlock
  dsimp only
  split_ifs
  · exact (hstopped.trans (State.keeps_dispatch _ x _)).trans (hended _ (by simpa using h))
  · exact ((hstopped.trans (State.keeps_countRx _ x _)).trans (State.keeps_returnBlock _ x)).trans
      (hended _ (by simpa using h))

/-! ### Octets and bits -/

theorem State.keeps_takeGap (s : State) (x : Line) (o : Byte) (h : (s.rx.get x).state = .gap) :
    s.Keeps (s.takeGap x o) := by
  unfold State.takeGap
  split_ifs
  · exact s.keeps_enter_aligned x .gapSyn (by simp [h]) (by simp [h]) (by simp)
  · exact s.keeps_beginBlock x h
  · exact s.keeps_loseSync_compare x

theorem State.keeps_takeGapSyn (s : State) (x : Line) (o : Byte) (h : (s.rx.get x).state = .gapSyn) :
    s.Keeps (s.takeGapSyn x o) := by
  unfold State.takeGapSyn
  split_ifs
  · exact s.keeps_enter_aligned x .gap (by simp [h]) (by simp [h]) (by simp)
  · exact s.keeps_loseSync_compare x

theorem State.keeps_takeOctet (s : State) (x : Line) (o : Byte) : s.Keeps (s.takeOctet x o) := by
  unfold State.takeOctet
  split
  next => exact .refl s
  next h => exact s.keeps_takeConfirm x o h
  next h => exact s.keeps_takeGap x o h
  next h => exact s.keeps_takeGapSyn x o h
  next h =>
    split_ifs
    · exact s.keeps_placeHeader x o
    · exact s.keeps_completeHeader x o h
  next h => exact s.keeps_takeText x o h
  next h =>
    split_ifs
    · exact s.keeps_takeCheck x o h
    · exact s.keeps_completeBlock x o h

theorem pushBit_length_le (h : List Bool) (b : Bool) : (pushBit h b).length ≤ 8 := by
  rw [pushBit, List.length_drop]
  omega

/-- A bit or an octet enters the history of a receiver whose alignment stays fixed, or stays not fixed. -/
theorem State.keeps_history (s : State) (x : Line) (history : List Bool) (align : Option Nat) (hlen : history.length ≤ 8)
    (halign : align = none ↔ (s.rx.get x).align = none) :
    s.Keeps (s.modRx x fun r => { r with history, align }) := by
  refine s.keeps_modRx x _ (fun hlaw => ?_) fun _ => .inl
  simp_all [Receiver.Lawful]

theorem State.keeps_receiveBit (s : State) (x : Line) (bit : Bool) : s.Keeps (s.receiveBit x bit) := by
  unfold State.receiveBit
  dsimp only
  split
  next hnone =>
    have hpushed : s.Keeps (s.modRx x fun r => { r with history := pushBit (s.rx.get x).history bit }) := by
      refine s.keeps_modRx x _ (fun hlaw => ?_) fun _ => .inl
      simp_all [Receiver.Lawful, pushBit_length_le]
    exact hpushed.trans (State.keeps_huntCompare _ x (by simpa using hnone))
  next p hsome =>
    split_ifs
    · exact s.keeps_history x _ _ (pushBit_length_le _ _) (by simp [hsome])
    · exact (s.keeps_history x _ _ (pushBit_length_le _ _) (by simp [hsome])).trans (State.keeps_takeOctet _ x _)

end Sys2Proof.Machine

/-! PROOF. The Management Engine, its requests, the timebase and RESET keep the laws, and so does every step. -/

namespace Sys2Proof.Machine

/-! ### What is due -/

theorem State.keeps_takeSession (s : State) : s.Keeps s.takeSession := by
  unfold State.takeSession
  split
  next => exact .refl s
  next d rest hqueue =>
    refine ((s.keeps_buf _ (s.buf.keeps_takeReply _)).trans (State.keeps_engine _ _ ?_)).trans (State.keeps_countEngine _ _)
    rintro ⟨hnodup, -, hlen, -⟩
    have hrest : rest.length ≤ 4 := by
      simp only [hqueue, List.length_cons] at hlen
      omega
    refine ⟨hnodup, fun _ => rfl, hrest, (nomatch ·), fun _ => rfl, ?_⟩
    intro ss hss
    obtain rfl := Option.some.inj hss
    exact ⟨Nat.zero_le _, fun _ => Nat.zero_le _, Nat.zero_le _⟩

theorem State.keeps_reinitIfDue (s : State) : s.Keeps s.reinitIfDue := by
  unfold State.reinitIfDue
  split_ifs
  · exact s.keeps_resetPart
  · exact .refl s

theorem State.keeps_takeIfDue (s : State) : s.Keeps s.takeIfDue := by
  unfold State.takeIfDue
  split_ifs
  · exact s.keeps_takeSession
  · exact .refl s

theorem State.keeps_settle (s : State) : s.Keeps s.settle :=
  (s.keeps_reinitIfDue.trans (State.keeps_takeIfDue _)).trans (State.keeps_drain _)

theorem State.keeps_running (s : State) (f : State → State) (hf : ∀ t : State, t.Keeps (f t)) :
    s.Keeps (s.running f) := by
  unfold State.running
  split_ifs
  · exact .refl s
  · exact s.keeps_settle.trans (hf _)

theorem State.keeps_buildNow (s : State) : s.Keeps s.buildNow := by
  unfold State.buildNow
  split_ifs
  · exact s.keeps_drain.trans (State.keeps_buildNotice _)
  · exact s.keeps_drain

/-! ### FLUSH-ALL -/

theorem State.keeps_discardQueue (s : State) : s.Keeps s.discardQueue := by
  refine (s.keeps_engine { s.engine with queue := [] } ?_).trans (State.Keeps.foldl State.keeps_freeDesc _ _)
  rintro ⟨hnodup, hflush, -, hrest⟩
  exact ⟨hnodup, hflush, Nat.zero_le _, hrest⟩

theorem State.keeps_flushPart (s : State) (k : FlushPart) : s.Keeps (s.flushPart k) := by
  cases k with
  | queues x => exact s.keeps_flushClasses x _
  | receiver x => exact s.keeps_restart x
  | management => exact s.keeps_discardQueue

theorem State.keeps_makePart (s : State) (k : FlushPart) : s.Keeps (s.makePart k) := by
  unfold State.makePart
  split_ifs
  · refine (s.keeps_unflushed _ ?_).trans (State.keeps_flushPart _ k)
    rintro ⟨hnodup, hflush, hrest⟩
    exact ⟨hnodup.erase k, fun hne => hflush fun hnil => hne (by simp [hnil]), hrest⟩
  · exact .refl s

theorem State.keeps_makeParts (s : State) : s.Keeps s.makeParts :=
  (s.keeps_inputs _ _ _ _ s.flushes.tail _ _).trans (State.Keeps.foldl State.keeps_makePart _ _)

/-- A FLUSH-ALL is a record of a session. -/
theorem State.keeps_flushAll (s : State) (h : s.engine.session.isSome = true) : s.Keeps s.flushAll := by
  refine (s.keeps_unflushed FlushPart.all ?_).trans (State.keeps_makeParts _)
  rintro ⟨-, -, hrest⟩
  exact ⟨(by decide : FlushPart.all.Nodup), fun _ => h, hrest⟩

theorem State.keeps_finishFlush (s : State) : s.Keeps s.finishFlush := by
  unfold State.finishFlush
  split_ifs
  · exact .refl s
  · exact (State.Keeps.foldl State.keeps_makePart _ s).trans (State.keeps_settle _)

theorem State.keeps_atRecord (s : State) (f : State → State) (hf : ∀ t : State, t.Keeps (f t)) :
    s.Keeps (s.atRecord f) :=
  s.keeps_running _ fun t => t.keeps_finishFlush.trans (hf _)

/-- A FLUSH-ALL leaves the session as it is. -/
theorem State.makePart_session (s : State) (k : FlushPart) : (s.makePart k).engine.session = s.engine.session := by
  have hfreed (l : List Nat) (s : State) : (l.foldl (fun s d => s.freeDesc d) s).engine = s.engine := by
    induction l generalizing s with
    | nil => rfl
    | cons d l ih => rw [List.foldl_cons, ih, (s.freeDesc_kept d).2.2.2.2.2.2.2.2.1]
  unfold State.makePart
  split_ifs
  · cases k <;> simp [State.flushPart, State.discardQueue, hfreed]
  · rfl

theorem State.flushAll_session (s : State) : s.flushAll.engine.session = s.engine.session := by
  have hmade (ks : List FlushPart) (s : State) : (ks.foldl State.makePart s).engine.session = s.engine.session := by
    induction ks generalizing s with
    | nil => rfl
    | cons k ks ih => rw [List.foldl_cons, ih, s.makePart_session k]
  exact hmade _ _

/-! ### The walk of the request list (R128 to R132) -/

/-- A session changed within its room (R128, R130). -/
theorem State.keeps_withSession (s : State) (ss ss' : Session) (hss : s.engine.session = some ss)
    (h : ss.results ≤ 16 → (ss.outcome ≠ .malformed → ss.replyLen ≤ 374) → ss'.results ≤ 16 ∧
      (ss'.outcome ≠ .malformed → ss'.replyLen ≤ 374) ∧ ss'.replyLen ≤ 378) : s.Keeps (s.withSession ss') := by
  refine s.keeps_engine _ ?_
  rintro ⟨hnodup, -, hlen, hidle, -, hroom⟩
  obtain ⟨hresults, hreply, -⟩ := hroom ss hss
  refine ⟨hnodup, fun _ => rfl, hlen, fun hstate => ?_, fun _ => rfl, ?_⟩
  · rw [hidle hstate] at hss
    cases hss
  · rintro _ ⟨⟩
    exact h hresults hreply

/-- A result of `n` octets has room in the session's reply, a closing record behind it. -/
def Session.hasRoom (ss : Session) (n : Nat) : Prop := ss.results ≠ 16 ∧ ss.replyLen + n ≤ 374

theorem State.keeps_answer (s : State) (h : RecordHead) (status : Status) (data : List Byte)
    (hroom : ∀ ss, s.engine.session = some ss → ss.hasRoom (4 + data.length)) : s.Keeps (s.answer h status data) := by
  unfold State.answer
  split
  next => exact .refl s
  next ss hss =>
    obtain ⟨hresults, hreply⟩ := hroom ss hss
    refine ((s.keeps_writeResult _ _).trans (State.keeps_withSession _ ss _ (by simpa using hss) fun hle _ => ?_)).trans
      (State.keeps_countEngine _ _)
    have hlen : (resultRecord h.code h.tag status data).length = 4 + data.length := by simp [resultRecord]; omega
    simp only [Session.wrote, hlen]
    exact ⟨by omega, fun _ => by omega, by omega⟩

/-- The room that a record of a fate finds in the session's reply (R128): a result, or the largest result of its code. -/
def Session.leavesRoom (ss : Session) (reinit : Bool) : Fate → Prop
  | .truncated => True
  | .malformed _ _ => ss.results ≠ 16
  | .skipped h => ss.hasRoom (largestResult reinit h.code)
  | .unknown h => ss.hasRoom (largestResult reinit h.code)
  | .badLength h => ss.hasRoom (largestResult reinit h.code)
  | .request h _ => ss.hasRoom (largestResult reinit h.code)

/-- The steps of R128 stop a record that has no room. -/
theorem State.fateOf_leavesRoom (s : State) (ss : Session) :
    ss.leavesRoom (decide (s.engine.state = .reinitPending)) (s.fateOf ss) := by
  unfold State.fateOf
  refine iteInduction (fun _ => trivial) fun hresults => ?_
  refine iteInduction (fun _ => hresults) fun _ => ?_
  refine iteInduction (fun _ => trivial) fun hroom => ?_
  have hreply : ss.replyLen + largestResult (decide (s.engine.state = .reinitPending))
      (s.buf.textOctet ss.request ss.position) +
      4 ≤ 378 := Nat.le_of_not_lt hroom
  have hfits : ss.hasRoom (largestResult (decide (s.engine.state = .reinitPending))
      (s.buf.textOctet ss.request ss.position)) :=
    ⟨hresults, by omega⟩
  refine iteInduction (fun _ => hfits) fun _ => ?_
  split
  · exact hfits
  · exact iteInduction (fun _ => hfits) fun _ => hfits

/-- The least that the room check counts for a record is a result without data (R130). -/
theorem four_le_largestResult (reinit : Bool) (code : Byte) : 4 ≤ largestResult reinit code := by
  revert reinit code
  decide +kernel

/-- The record at the walk position: the session walks, and its fate is by the steps of R128. -/
theorem State.nextRecord_eq_some {s : State} {ss : Session} {f : Fate} (h : s.nextRecord = some (ss, f)) :
    s.engine.session = some ss ∧ ss.outcome = .walking ∧ s.fateOf ss = f := by
  unfold State.nextRecord at h
  split at h
  next ss' hss =>
    split_ifs at h with hwalking
    obtain ⟨rfl, rfl⟩ : ss' = ss ∧ s.fateOf ss' = f := by simpa using h
    exact ⟨hss, hwalking, rfl⟩
  next => cases h

/-- A record with a fate other than MALFORMED and truncation has room for the largest result of its code. -/
theorem State.nextRecord_hasRoom {s : State} {ss : Session} {f : Fate} {h : RecordHead} (hnext : s.nextRecord = some (ss, f))
    (hf : f = .skipped h ∨ f = .unknown h ∨ f = .badLength h ∨ ∃ params, f = .request h params) :
    ss.hasRoom (largestResult (decide (s.engine.state = .reinitPending)) h.code) := by
  obtain ⟨-, -, rfl⟩ := State.nextRecord_eq_some hnext
  have hroom := s.fateOf_leavesRoom ss
  rcases hf with hf | hf | hf | ⟨_, hf⟩ <;> rw [hf] at hroom <;> exact hroom

theorem Session.hasRoom.mono {ss : Session} {m n : Nat} (h : ss.hasRoom n) (hle : m ≤ n) : ss.hasRoom m :=
  ⟨h.1, Nat.le_trans (Nat.add_le_add_left hle _) h.2⟩

/-- A record that carries no request out is answered within its room. -/
theorem State.keeps_answer_refused (s : State) (ss : Session) (f : Fate) (h : RecordHead) (status : Status)
    (hnext : s.nextRecord = some (ss, f))
    (hf : f = .skipped h ∨ f = .unknown h ∨ f = .badLength h ∨ ∃ params, f = .request h params) :
    s.Keeps (s.answer h status []) := by
  refine s.keeps_answer h status [] fun ss' hss' => ?_
  obtain ⟨hss, -, -⟩ := State.nextRecord_eq_some hnext
  obtain rfl : ss = ss' := by simpa [hss] using hss'
  exact (State.nextRecord_hasRoom hnext hf).mono (four_le_largestResult _ _)

theorem State.keeps_malformedRecord (s : State) :
    s.Keeps (match s.nextRecord with
      | some (ss, .malformed code tag) => s.answerMalformed ss code tag
      | _ => s) := by
  split
  next ss code tag hnext =>
    obtain ⟨hss, hwalking, hfate⟩ := State.nextRecord_eq_some hnext
    have hresults : ss.results ≠ 16 := by
      have hroom := s.fateOf_leavesRoom ss
      rwa [hfate] at hroom
    refine (s.keeps_writeResult _ _).trans (State.keeps_withSession _ ss _ (by simpa using hss) fun hle hreply => ?_)
    have := hreply (by rw [hwalking]; decide)
    refine ⟨?_, fun hne => absurd rfl hne, ?_⟩ <;> simp only [Session.wrote] <;> omega
  next => exact .refl s

theorem State.keeps_walkTruncation (s : State) :
    s.Keeps (match s.nextRecord with
      | some (ss, .truncated) => s.withSession { ss with outcome := .truncated }
      | _ => s) := by
  split
  next ss hnext =>
    obtain ⟨hss, hwalking, -⟩ := State.nextRecord_eq_some hnext
    refine s.keeps_withSession ss _ hss fun hle hreply => ?_
    have hroom := hreply (by rw [hwalking]; decide)
    exact ⟨hle, fun _ => hroom, Nat.le_trans hroom (by decide)⟩
  next => exact .refl s

/-! ### Requests (chapter 8) -/

/-- What a request's response leaves: the laws, the session, and data within the room counted for its code. -/
structure Response.Serves (r : Response) (s : State) (largest : Nat) : Prop where
  keeps : s.Keeps r.state
  session : r.state.engine.session = s.engine.session
  data : 4 + r.data.length ≤ largest

theorem serves_refuse (status : Status) (s : State) (n : Nat) (h : 4 ≤ n := by decide) : (refuse status s).Serves s n :=
  ⟨.refl s, rfl, h⟩

theorem serves_accept (data : List Byte) (s : State) (n : Nat) (h : 4 + data.length ≤ n) : (accept data s).Serves s n :=
  ⟨.refl s, rfl, h⟩

theorem State.keeps_serve (s : State) (code : Byte) (respond : Session → List Byte → State → Response)
    (h : ∀ ss params, s.engine.session = some ss → (respond ss params s).Serves s (largestResult false code)) :
    s.Keeps (s.serve code respond) := by
  unfold State.serve
  split
  next ss hd params hnext =>
    split_ifs with hcode
    · obtain ⟨hss, -, hfate⟩ := State.nextRecord_eq_some hnext
      obtain ⟨hkeeps, hsession, hdata⟩ := h ss params hss
      refine hkeeps.trans (State.keeps_answer _ _ _ _ fun ss' hss' => ?_)
      obtain rfl : ss = ss' := by simpa [hsession, hss] using hss'
      have hroom := State.nextRecord_hasRoom hnext (.inr (.inr (.inr ⟨params, rfl⟩)))
      have hopen : s.engine.state ≠ .reinitPending := fun hreinit => by
        simp only [State.fateOf, hreinit, decide_true, if_true] at hfate
        split_ifs at hfate
      rw [decide_eq_false hopen, hcode] at hroom
      exact hroom.mono hdata
    · exact .refl s
  next => exact .refl s

theorem serves_identify (ss : Session) (params : List Byte) (s : State) :
    (respondIdentify ss params s).Serves s 14 := serves_accept _ s _ (by decide)

/-- LINE-SET puts a legal record in place, and leaves a permitted line (R143, R144). -/
theorem State.keeps_setConfig (s : State) (ss : Session) (x : Line) (c : LineConfig) (hlegal : c.legal = true)
    (hopen : s.lockedOut ss x c = false) : s.Keeps (s.setConfig x c) := by
  have hset : s.Keeps { s with config := s.config.set x c } := by
    refine { legal := fun h y => ?legal, permitted := fun _ => ?permitted }
    case legal =>
      by_cases hy : y = x
      · subst hy
        simpa using hlegal
      · simpa [PerLine.get_set_other _ _ hy] using h y
    case permitted =>
      rw [State.lockedOut, Bool.and_eq_false_iff] at hopen
      rcases hopen with hp | hother
      · exact ⟨x, by simpa using hp⟩
      · rw [Bool.or_eq_false_iff] at hother
        obtain ⟨y, -, hy⟩ := List.all_eq_false.1 hother.2
        exact ⟨y, by simpa using hy⟩
  unfold State.setConfig
  dsimp only
  split_ifs
  · exact hset
  · exact hset.trans (State.keeps_restart _ x)

theorem serves_lineSet (ss : Session) (params : List Byte) (s : State) : (respondLineSet ss params s).Serves s 4 := by
  unfold respondLineSet
  split
  · split
    next x c _ _ =>
      split_ifs with hlegal hlocked
      · exact serves_refuse _ s _
      · exact serves_refuse _ s _
      · exact ⟨s.keeps_setConfig ss x c (by simpa using hlegal) (by simpa using hlocked), by simp [accept], by simp [accept]⟩
    · exact serves_refuse _ s _
  · exact serves_refuse _ s _

theorem serves_lineGet (ss : Session) (params : List Byte) (s : State) : (respondLineGet ss params s).Serves s 18 := by
  unfold respondLineGet
  split
  · split
    · exact serves_accept _ s _ (by simp [LineConfig.octets, octets2])
    · exact serves_refuse _ s _
  · exact serves_refuse _ s _

theorem serves_lineRestart (ss : Session) (params : List Byte) (s : State) :
    (respondLineRestart ss params s).Serves s 4 := by
  unfold respondLineRestart
  split
  · split
    · exact ⟨s.keeps_restart _, by simp [accept], by simp [accept]⟩
    · exact serves_refuse _ s _
  · exact serves_refuse _ s _

theorem serves_queueFlush (ss : Session) (params : List Byte) (s : State) :
    (respondQueueFlush ss params s).Serves s 6 := by
  unfold respondQueueFlush
  split
  · split
    · exact ⟨s.keeps_flushClasses _ _, by simp [accept], by simp [accept, octets2]⟩
    · exact serves_refuse _ s _
  · exact serves_refuse _ s _

theorem State.keeps_defaults (s : State) (defaults : PerLine DefaultRoute) :
    s.Keeps { s with routes := { s.routes with defaults } } where
  keys := id

theorem serves_defaultSet (ss : Session) (params : List Byte) (s : State) :
    (respondDefaultSet ss params s).Serves s 4 := by
  unfold respondDefaultSet
  split
  · split
    · exact ⟨s.keeps_defaults _, rfl, by simp [accept]⟩
    · exact serves_refuse _ s _
  · exact serves_refuse _ s _

/-- A key that no slot matches is no ACTIVE slot's. -/
theorem RouteTable.slot_of_find_none (r : RouteTable) (x : Line) (dst : Byte) (h : r.find x dst = none) (m : Nat) (f : Entry)
    (hm : r.slot m = .active f) : ¬(f.keyLine = x ∧ f.keyDst = dst) := by
  have hmem : Slot.active f ∈ r.slots := by
    rw [RouteTable.slot, List.getD_eq_getElem?_getD] at hm
    cases hget : r.slots[m]? with
    | none => simp [hget] at hm
    | some v =>
      obtain rfl : v = .active f := by simpa [hget] using hm
      exact List.mem_of_getElem? hget
  have hno := List.findIdx?_eq_none_iff.1 h _ hmem
  simpa [Slot.matches] using hno

theorem serves_routeInsert (ss : Session) (params : List Byte) (s : State) :
    (respondRouteInsert ss params s).Serves s 5 := by
  unfold respondRouteInsert
  split
  · split
    next x route window _ _ =>
      split
      · exact serves_refuse _ s _
      next hfind =>
        split
        · exact serves_refuse _ s _
        next n _ =>
          refine ⟨s.keeps_setSlot n _ fun e he m f hm hline hdst _ => ?_, by simp [accept], by simp [accept]⟩
          obtain rfl := Slot.active.inj he
          exact absurd ⟨hline.symm, hdst.symm⟩ (s.routes.slot_of_find_none x _ hfind m f hm)
    · exact serves_refuse _ s _
  · exact serves_refuse _ s _

theorem Entry.updated_key (e : Entry) (route : Route) (window : Nat) (clear : Bool) :
    (e.updated route window clear).keyLine = e.keyLine ∧ (e.updated route window clear).keyDst = e.keyDst := by
  cases clear <;> exact ⟨rfl, rfl⟩

theorem serves_routeUpdate (ss : Session) (params : List Byte) (s : State) :
    (respondRouteUpdate ss params s).Serves s 4 := by
  unfold respondRouteUpdate
  split
  · split
    next route window cl _ _ _ =>
      split
      next e he =>
        split_ifs
        · obtain ⟨hline, hdst⟩ := e.updated_key route window cl
          exact ⟨s.keeps_setSlot_of_same_key _ e _ he hline hdst, by simp [accept], by simp [accept]⟩
        · exact serves_refuse _ s _
      · exact serves_refuse _ s _
      · exact serves_refuse _ s _
    · exact serves_refuse _ s _
  · exact serves_refuse _ s _

theorem serves_routeDelete (ss : Session) (params : List Byte) (s : State) :
    (respondRouteDelete ss params s).Serves s 5 := by
  unfold respondRouteDelete
  split
  · split
    · split
      · split_ifs
        · exact ⟨s.keeps_setSlot_of_not_active _ _ (by simp), by simp [accept], by simp [accept]⟩
        · exact ⟨s.keeps_setSlot_of_not_active _ _ (by simp), by simp [accept], by simp [accept]⟩
        · exact serves_refuse _ s _
      · exact serves_refuse _ s _
      · exact serves_refuse _ s _
    · exact serves_refuse _ s _
  · exact serves_refuse _ s _

theorem Entry.readData_length (e : Entry) : e.readData.length = 11 := by
  obtain ⟨keyLine, keyDst, route, seqCheck, blocks, octets, duplicates, gaps, binds⟩ := e
  cases route with
  | discard => cases seqCheck <;> rfl
  | forward egress cls rewrite =>
    cases rewrite with
    | none => cases seqCheck <;> rfl
    | some v => cases seqCheck <;> rfl

theorem serves_routeRead (ss : Session) (params : List Byte) (s : State) :
    (respondRouteRead ss params s).Serves s 16 := by
  unfold respondRouteRead
  split
  · split
    · exact serves_accept _ s _ (by simp [Entry.readData_length])
    · exact serves_refuse _ s _
    · exact serves_refuse _ s _
  · exact serves_refuse _ s _

theorem serves_routeFind (ss : Session) (params : List Byte) (s : State) :
    (respondRouteFind ss params s).Serves s 5 := by
  unfold respondRouteFind
  split
  · split
    · split
      · exact serves_accept _ s _ (by simp)
      · exact serves_refuse _ s _
    · exact serves_refuse _ s _
  · exact serves_refuse _ s _

theorem countersData_length (group subject : Byte) (members : List Nat) :
    (countersData group subject members).length = 2 + 4 * members.length := by
  have hoctets : (members.flatMap octets4).length = 4 * members.length := by
    induction members with
    | nil => rfl
    | cons m ms ih =>
      rw [List.flatMap_cons, List.length_append, ih, List.length_cons]
      simp only [octets4, List.length_cons, List.length_nil]
      omega
  rw [countersData, List.length_append, hoctets]
  rfl

/-- The counters of an entry cleared, its key as before. -/
theorem State.keeps_clearSlot (s : State) (n : Nat) (e : Entry) (h : s.routes.slot n = .active e) :
    s.Keeps (s.setSlot n (.active e.cleared)) :=
  s.keeps_setSlot_of_same_key n e _ h rfl rfl

/-- A counter group read, and cleared where that is asked. -/
theorem serves_group (s u : State) (clear : Bool) (group subject : Byte) (members : List Nat) (hlen : members.length ≤ 13)
    (hkeeps : s.Keeps u) (hsession : u.engine.session = s.engine.session) :
    (accept (countersData group subject members) (if clear then u else s)).Serves s 58 := by
  refine ⟨?_, ?_, ?_⟩
  · cases clear
    · exact .refl s
    · exact hkeeps
  · cases clear
    · rfl
    · exact hsession
  · rw [accept, countersData_length]
    omega

theorem serves_readGroup (s : State) (group subject : Byte) (clear : Bool) :
    (s.readGroup group subject clear).Serves s 58 := by
  unfold State.readGroup
  split
  · split
    · exact serves_group s _ clear _ _ _ (by simp [RxCounters.members]) (s.keeps_countRx _ _) rfl
    · exact serves_refuse _ s _
  · split
    · split
      · exact serves_group s _ clear _ _ _ (by simp [TxCounters.members]) (s.keeps_countTx _ _) rfl
      · exact serves_refuse _ s _
    · split
      · split
        next e he => exact serves_group s _ clear _ _ _ (by simp) (s.keeps_clearSlot _ e he) rfl
        · exact serves_group s _ clear _ _ _ (by simp) (s.keeps_setSlot_of_not_active _ _ (by simp)) rfl
        · exact serves_refuse _ s _
      · split
        · exact serves_group s _ clear _ _ _ (by simp [Buffer.members])
            (s.keeps_buf _ (.of_same rfl rfl rfl rfl rfl)) rfl
        · split
          · exact serves_group s _ clear _ _ _ (by simp [EngineCounters.members]) (s.keeps_countEngine _) rfl
          · exact serves_refuse _ s _

theorem serves_countersRead (ss : Session) (params : List Byte) (s : State) :
    (respondCountersRead ss params s).Serves s 58 := by
  unfold respondCountersRead
  split
  · split
    · exact serves_readGroup s _ _ _
    · exact serves_refuse _ s _
  · exact serves_refuse _ s _

theorem serves_noticeSet (ss : Session) (params : List Byte) (s : State) :
    (respondNoticeSet ss params s).Serves s 4 := by
  unfold respondNoticeSet
  split
  · split
    next enabled x _ _ =>
      split
      next hrange =>
        refine ⟨s.keeps_emitter _ s.awaits ?_, rfl, by simp [accept]⟩
        rintro ⟨-, htimer⟩
        refine ⟨hrange, fun n hn => htimer n ?_⟩
        cases enabled with
        | false => exact hn
        | true => cases hn
      · exact serves_refuse _ s _
    · exact serves_refuse _ s _
  · exact serves_refuse _ s _

theorem serves_selfSet (ss : Session) (params : List Byte) (s : State) : (respondSelfSet ss params s).Serves s 4 := by
  unfold respondSelfSet
  split
  · exact ⟨s.keeps_self _, rfl, by simp [accept]⟩
  · exact serves_refuse _ s _

theorem serves_flushAll (ss ss' : Session) (params : List Byte) (s : State) (hss : s.engine.session = some ss') :
    (respondFlushAll ss params s).Serves s 4 :=
  ⟨s.keeps_flushAll (by simp [hss]), s.flushAll_session, by simp [respondFlushAll, accept]⟩

theorem serves_reinit (ss : Session) (params : List Byte) (s : State) : (respondReinit ss params s).Serves s 4 := by
  refine ⟨s.keeps_engine _ ?_, rfl, by simp [respondReinit, accept]⟩
  rintro ⟨hnodup, hflush, hlen, -, -, hroom⟩
  exact ⟨hnodup, hflush, hlen, (nomatch ·), (nomatch ·), hroom⟩

/-! ### The timebase -/

/-- The return of a block does not look at the deadline. -/
theorem State.returnBlock_modRx (s : State) (x : Line) (f : Receiver → Receiver)
    (h : (f (s.rx.get x)).filling = (s.rx.get x).filling) :
    (s.modRx x f).returnBlock x = (s.returnBlock x).modRx x f := by
  unfold State.returnBlock
  rw [State.modRx_rx, PerLine.get_modify_same, h]
  split
  next d _ =>
    have hbind : (s.modRx x f).releaseBind d = (s.releaseBind d).modRx x f := by
      unfold State.releaseBind
      rw [(s.modRx_kept x f).2.2.2.2.2.2.1]
      split <;> rfl
    rw [hbind]
    rfl
  next => rfl

/-- The tick that finds a countdown at its last millisecond is its expiry (R30, R31). -/
theorem State.reach_deadline_expiring (s : State) (x : Line) (n : Nat) (h : (s.rx.get x).deadline = .running n)
    (hn : n ≤ 1) :
    s.reach (.deadline x) =
      (State.countRx { s with owed := s.owed.erase (.deadline x) } x fun c =>
        { c with deadlineAbandons := satAdd c.deadlineAbandons 1 }).loseSync x := by
  have htick : (s.rx.get x).deadline.tick = .running 0 := by
    rw [h, Deadline.tick, Nat.sub_eq_zero_of_le hn]
  have hhunt (u : State) (f : Receiver → Receiver) (hfill : (f (u.rx.get x)).filling = (u.rx.get x).filling)
      (hhunting : ∀ r, (f r).hunting = r.hunting) : (u.modRx x f).toHunt x = u.toHunt x := by
    rw [State.toHunt_eq, State.toHunt_eq, u.returnBlock_modRx x f hfill]
    simp only [State.modRx, PerLine.modify_modify, hhunting]
  have hcount (u : State) (f : Receiver → Receiver) (g : RxCounters → RxCounters) :
      (u.modRx x f).countRx x g = (u.countRx x g).modRx x f := rfl
  simp only [State.reach, State.tickTo, State.expire, State.modRx_rx, PerLine.get_modify_same, htick,
    if_true]
  rw [State.loseSync, State.loseSync, hcount, hhunt _ (fun r => { r with deadline := r.deadline.tick }) (by rfl)
    (fun _ => by rfl)]

theorem State.keeps_timebase (s : State) (divideCount : Nat) (owed : List TickTaker)
    (h : s.TickLaw → owed.Nodup ∧ divideCount ≤ 3999) : s.Keeps { s with divideCount, owed } where
  ticks := h

theorem State.keeps_owed (s : State) (k : TickTaker) : s.Keeps { s with owed := s.owed.erase k } :=
  s.keeps_timebase _ _ fun h => ⟨h.1.erase k, h.2⟩

theorem State.keeps_reach (s : State) (k : TickTaker) : s.Keeps (s.reach k) := by
  cases k with
  | queue x => exact (s.keeps_owed _).trans (State.keeps_buf _ _ (.of_same rfl rfl rfl rfl rfl))
  | timer =>
    rw [s.reach_timer]
    refine (s.keeps_owed _).trans (State.keeps_emitter _ _ s.awaits ?_)
    rintro ⟨hinterval, htimer⟩
    refine ⟨hinterval, fun m hm => ?_⟩
    cases hold : s.emitter.timer with
    | expired => simp [hold] at hm
    | running n =>
      have := htimer n hold
      simp only [hold] at hm
      split_ifs at hm with hlast
      obtain rfl := Timer.running.inj hm
      omega
  | deadline x =>
    cases hold : (s.rx.get x).deadline with
    | stopped =>
      rw [s.reach_deadline_stopped x hold]
      exact s.keeps_owed _
    | running n =>
      rcases Nat.lt_or_ge n 2 with hlast | hmore
      · rw [s.reach_deadline_expiring x n hold (by omega)]
        exact ((s.keeps_owed _).trans (State.keeps_countRx _ x _)).trans (State.keeps_loseSync _ x)
      · obtain ⟨m, rfl⟩ := Nat.exists_eq_add_of_le' hmore
        rw [s.reach_deadline_running x m hold]
        refine (s.keeps_owed _).trans (State.keeps_modRx _ x _ (fun hlaw => ?_) fun _ => .inl)
        obtain ⟨hins, hdisp, hfill, hrun, -, hrest⟩ := hlaw
        exact ⟨hins, hdisp, hfill, fun _ => hrun (by simp [hold]), by simp, hrest⟩

theorem State.keeps_deliver (s : State) (k : TickTaker) : s.Keeps (s.deliver k) := by
  unfold State.deliver
  split_ifs
  · exact s.keeps_settle.trans (State.keeps_reach _ k)
  · exact s.keeps_settle

theorem State.keeps_finishTick (s : State) : s.Keeps s.finishTick :=
  (State.Keeps.foldl State.keeps_deliver _ s).trans (State.keeps_settle _)

theorem State.keeps_issue (s : State) : s.Keeps s.issue :=
  s.keeps_timebase _ _ fun _ => ⟨by decide, Nat.zero_le _⟩

theorem State.keeps_newTick (s : State) : s.Keeps s.newTick :=
  (((s.keeps_inputs _ _ s.ticks.tail _ _ _ _).trans (State.keeps_finishTick _)).trans (State.keeps_issue _)).trans
    (State.Keeps.foldl State.keeps_deliver _ _)

theorem State.keeps_tick (s : State) : s.Keeps s.tick := by
  unfold State.tick
  split
  · exact (s.keeps_inputs _ _ s.ticks.tail _ _ _ _).trans (State.Keeps.foldl State.keeps_deliver _ _)
  · exact s.keeps_newTick

theorem State.keeps_takeEdge (s : State) (e : Edge) : s.Keeps (s.takeEdge e) := by
  cases e with
  | tc x hold further => exact s.keeps_tcEdge x hold further
  | refclk =>
    rw [State.takeEdge, State.refclkEdge]
    split_ifs with hcount
    · exact { ticks := fun h => ⟨h.1, hcount⟩ }
    · exact s.keeps_newTick

theorem State.keeps_idle (s : State) : s.Keeps s.idle :=
  (s.keeps_inputs _ s.edges.tail _ _ _ _ _).trans (State.keeps_running _ _ fun t => t.keeps_takeEdge _)

/-! ### RESET -/

theorem State.keeps_holdReset (s : State) : s.Keeps s.holdReset where
  memory := id
  transmitters _ h := by
    rw [State.transmitterBounds_iff] at h ⊢
    intro x
    obtain ⟨hrun, hgap, -⟩ := h x
    simpa [State.holdReset, Egress.Bounded] using ⟨hrun, hgap⟩
  engine := id
  ticks := id
  keys := id
  emitter := id
  cells := id
  receivers := id
  legal := id
  permitted := id

theorem State.keeps_start (s : State) : s.Keeps s.start where
  transmitters _ h := by
    rw [State.transmitterBounds_iff] at h ⊢
    intro x
    obtain ⟨hrun, hgap, -⟩ := h x
    cases x <;> exact ⟨hrun, hgap, .inl rfl⟩
  ticks h := ⟨h.1, Nat.zero_le _⟩
  memory := id
  engine := id
  keys := id
  emitter := id
  cells := id
  receivers := id
  legal := id
  permitted := id

/-! ### Every step -/

theorem State.keeps_receiveOctet (s : State) (x : Line) (o : Byte) : s.Keeps (s.receiveOctet x o) := by
  unfold State.receiveOctet
  split_ifs
  · refine State.Keeps.trans (s.keeps_modRx x _ (fun hlaw => ?_) fun _ => .inl) (State.keeps_takeOctet _ x o)
    simp_all [Receiver.Lawful, octetBits]
  · exact State.Keeps.foldl (fun s bit => s.keeps_settle.trans (State.keeps_receiveBit _ x bit)) _ s

/-- A command answers a part that keeps the laws. -/
def Outcome.KeepsLaws (s : State) (o : Host.Outcome State Fault Refusal) : Prop := ∃ t, o = .next t ∧ s.Keeps t

theorem keepsLaws_running (s : State) (f : State → State) (hf : ∀ t : State, t.Keeps (f t)) :
    Outcome.KeepsLaws s (.next (s.running f)) :=
  ⟨_, rfl, s.keeps_running f hf⟩

theorem keepsLaws_serve (s : State) (code : Byte) (respond : Session → List Byte → State → Response)
    (h : ∀ ss params (t : State), t.engine.session = some ss → (respond ss params t).Serves t (largestResult false code)) :
    Outcome.KeepsLaws s (.next (s.atRecord fun s => s.serve code respond)) :=
  ⟨_, rfl, s.keeps_atRecord _ fun t => t.keeps_serve code respond fun ss params => h ss params t⟩

/-- Every command is a sequence of operations that keep the laws. -/
theorem exec_keeps (c : Instr) (s : State) : Outcome.KeepsLaws s (exec c s) := by
  have hoctet (x : Line) (o : Byte) : Outcome.KeepsLaws s (.next (s.running fun s => s.receiveOctet x o)) :=
    keepsLaws_running s _ fun t => t.keeps_receiveOctet x o
  have hbit (x : Line) (bit : Bool) : Outcome.KeepsLaws s (.next (s.running fun s => s.receiveBit x bit)) :=
    keepsLaws_running s _ fun t => t.keeps_receiveBit x bit
  have hlow (t : State) (ht : s.Keeps t) : Outcome.KeepsLaws s (.next (if s.resetHigh then s else t)) := by
    refine ⟨_, rfl, ?_⟩
    split_ifs
    · exact .refl s
    · exact ht
  cases c with
  | hardwareReset => exact ⟨_, rfl, s.keeps_resetPart.trans (State.keeps_holdReset _)⟩
  | resetNegated =>
    refine ⟨_, rfl, ?_⟩
    split_ifs
    · exact s.keeps_start
    · exact .refl s
  | timebaseTick => exact keepsLaws_running s _ State.keeps_tick
  | huntMatch x bit => exact hbit x bit
  | huntComparisonNoMatch x bit => exact hbit x bit
  | octetInConfirm x o => exact hoctet x o
  | octetInGap x o => exact hoctet x o
  | octetInGapSyn x o => exact hoctet x o
  | headerOctet x o => exact hoctet x o
  | headerCompletion x o => exact hoctet x o
  | textOctet x o => exact hoctet x o
  | checkOctet x o => exact hoctet x o
  | blockCompletion x o => exact hoctet x o
  | deadlineExpiry x =>
    refine keepsLaws_running s _ fun t => ?_
    split_ifs
    · exact t.keeps_reach _
    · exact .refl t
  | intervalTimerExpiry =>
    refine keepsLaws_running s _ fun t => ?_
    split_ifs
    · exact t.keeps_reach _
    · exact .refl t
  | fillPairEnd x hold further => exact keepsLaws_running s _ fun t => t.keeps_endFillPair x hold further
  | gapPairEnd x hold further => exact keepsLaws_running s _ fun t => t.keeps_endGapPair x hold further
  | blockSent x => exact keepsLaws_running s _ fun t => t.keeps_endBlockSent x
  | sessionTake => exact hlow _ (s.keeps_reinitIfDue.trans (State.keeps_takeIfDue _))
  | noticeBuild => exact hlow _ (s.keeps_reinitIfDue.trans (State.keeps_buildNow _))
  | reinitReset => exact hlow _ s.keeps_reinitIfDue
  | malformedRecord => exact ⟨_, rfl, s.keeps_atRecord _ State.keeps_malformedRecord⟩
  | walkTruncation => exact ⟨_, rfl, s.keeps_atRecord _ State.keeps_walkTruncation⟩
  | skippedRecord =>
    refine ⟨_, rfl, s.keeps_atRecord _ fun t => ?_⟩
    split
    next hnext => exact t.keeps_answer_refused _ _ _ _ hnext (.inl rfl)
    next => exact .refl t
  | unknownRequestRecord =>
    refine ⟨_, rfl, s.keeps_atRecord _ fun t => ?_⟩
    split
    next hnext => exact t.keeps_answer_refused _ _ _ _ hnext (.inr (.inl rfl))
    next => exact .refl t
  | badLengthRecord =>
    refine ⟨_, rfl, s.keeps_atRecord _ fun t => ?_⟩
    split
    next hnext => exact t.keeps_answer_refused _ _ _ _ hnext (.inr (.inr (.inl rfl)))
    next => exact .refl t
  | sessionEnd => exact ⟨_, rfl, s.keeps_atRecord _ State.keeps_endIfOver⟩
  | identify => exact keepsLaws_serve s _ _ fun ss params t _ => serves_identify ss params t
  | lineSet => exact keepsLaws_serve s _ _ fun ss params t _ => serves_lineSet ss params t
  | lineGet => exact keepsLaws_serve s _ _ fun ss params t _ => serves_lineGet ss params t
  | lineRestart => exact keepsLaws_serve s _ _ fun ss params t _ => serves_lineRestart ss params t
  | queueFlush => exact keepsLaws_serve s _ _ fun ss params t _ => serves_queueFlush ss params t
  | defaultSet => exact keepsLaws_serve s _ _ fun ss params t _ => serves_defaultSet ss params t
  | routeInsert => exact keepsLaws_serve s _ _ fun ss params t _ => serves_routeInsert ss params t
  | routeUpdate => exact keepsLaws_serve s _ _ fun ss params t _ => serves_routeUpdate ss params t
  | routeDelete => exact keepsLaws_serve s _ _ fun ss params t _ => serves_routeDelete ss params t
  | routeRead => exact keepsLaws_serve s _ _ fun ss params t _ => serves_routeRead ss params t
  | routeFind => exact keepsLaws_serve s _ _ fun ss params t _ => serves_routeFind ss params t
  | countersRead => exact keepsLaws_serve s _ _ fun ss params t _ => serves_countersRead ss params t
  | noticeSet => exact keepsLaws_serve s _ _ fun ss params t _ => serves_noticeSet ss params t
  | selfSet => exact keepsLaws_serve s _ _ fun ss params t _ => serves_selfSet ss params t
  | flushAll =>
    refine keepsLaws_running s _ fun t => ?_
    split_ifs
    · exact t.keeps_makeParts
    · exact t.keeps_finishFlush.trans (State.keeps_serve _ _ _ fun ss params hss => serves_flushAll ss ss params _ hss)
  | reinit => exact keepsLaws_serve s _ _ fun ss params t _ => serves_reinit ss params t

/-- Whatever a step answers keeps the laws. -/
theorem step_keeps {s t : State} (h : step s = .next t) : s.Keeps t := by
  unfold step at h
  split at h
  next =>
    obtain rfl : s.idle = t := by simpa using h
    exact s.keeps_idle
  next c rest _ =>
    obtain ⟨u, hu, hkeeps⟩ := exec_keeps c { s with pending := rest }
    obtain rfl : u = t := by simpa [hu] using h
    exact (s.keeps_inputs rest _ _ _ _ _ _).trans hkeeps

/-- Settles O54: every write into a cell is `Memory.write`, which keeps the canonical form. -/
theorem stepsKeepMemoryCanonical : Obligations.StepsKeepMemoryCanonical :=
  fun _ _ hlaw hstep => (step_keeps hstep).memory hlaw

/-- Settles O55: each event leaves a lawful receiver lawful. -/
theorem stepsKeepReceiverLaw : Obligations.StepsKeepReceiverLaw :=
  fun _ _ hlaw hstep => (step_keeps hstep).receivers hlaw

/-- Settles O56: a transmitter's gap is a legal configuration's, its unit ends before the next begins, and R108 stops the
run at 8. -/
theorem stepsKeepConfigurationAndBounds : Obligations.StepsKeepConfigurationAndBounds := by
  rintro s t ⟨hlegal, hpermitted, htx, hemitter, hticks⟩ hstep
  have hkeeps := step_keeps hstep
  exact ⟨hkeeps.legal hlegal, hkeeps.permitted hpermitted, hkeeps.transmitters hlegal htx, hkeeps.emitter hemitter,
    hkeeps.ticks hticks⟩

/-- Settles O57: a key comes into the table by ROUTE-INSERT alone, where no ACTIVE slot has it. -/
theorem stepsKeepKeysUnique : Obligations.StepsKeepKeysUnique :=
  fun _ _ hlaw hstep => (step_keeps hstep).keys hlaw

/-- Settles O58: the steps of R128 count the room before a record is answered. -/
theorem stepsKeepEngineLaw : Obligations.StepsKeepEngineLaw :=
  fun _ _ hlaw hstep => (step_keeps hstep).engine hlaw

/-- Settles O59: a cell goes from a free list to a chain of its part, and a freed chain back to the list. -/
theorem stepsKeepCellsAccounted : Obligations.StepsKeepCellsAccounted :=
  fun _ _ hlaw hstep => (step_keeps hstep).cells hlaw

end Sys2Proof.Machine

/-! PROOF. Resets, and the management requests that set, read and report configuration, routes, counters and notices
(chapter 8): each is its response to the parameters, and the valid parameters are those of sections 1.7.1 to 1.7.3. -/

namespace Sys2Proof.Machine

/-! ### The queue and the resets -/

/-- Settles O1: `step` takes the front of a queue that is not empty. -/
theorem stepRunsFrontCommand : Obligations.StepRunsFrontCommand :=
  fun _ _ => rfl

/-- Settles O4: the reset sequence gives every item its after-reset value, and RESET then holds TDx. -/
theorem hardwareResetValues : Obligations.HardwareResetValues :=
  fun s => by
    have harm : exec .hardwareReset s = .next s.resetPart.holdReset := rfl
    rw [harm]
    simp only [State.holdReset, State.resetPart, State.reset, PerLine.map]

/-- The reset of a pending REINIT is due under the three conditions of R137. -/
theorem State.reinitDue_iff (s : State) :
    s.reinitDue = true ↔
      s.engine.state = .reinitPending ∧ s.engine.session = none ∧ (s.buf.desc 126).state = .free := by
  simp [State.reinitDue, and_assoc]

theorem State.reinitIfDue_of_due (s : State) (h : s.reinitDue = true) : s.reinitIfDue = s.resetPart :=
  if_pos h

theorem State.reinitIfDue_of_not_due (s : State) (h : ¬s.reinitDue = true) : s.reinitIfDue = s :=
  if_neg h

theorem exec_reinitReset_of_low (s : State) (h : s.resetHigh = false) : exec .reinitReset s = .next s.reinitIfDue := by
  have harm : exec .reinitReset s = .next (if s.resetHigh then s else s.reinitIfDue) := rfl
  rw [harm, h, if_neg (by decide)]

/-- Settles O6: the command makes the reset that is due, and no other. -/
theorem reinitResetValues : Obligations.ReinitResetValues := by
  intro s hlow
  rw [exec_reinitReset_of_low s hlow, ← s.reinitDue_iff]
  refine ⟨fun hdue => ?due, fun hnot => ?notDue⟩
  case due =>
    rw [s.reinitIfDue_of_due hdue]
    rfl
  case notDue => rw [s.reinitIfDue_of_not_due hnot]

/-! ### Parameters: flags, line codes, egress sets and classes (section 1.8) -/

theorem octet_le_one_iff {o : Byte} : o.toNat ≤ 1 ↔ o = 0 ∨ o = 1 := by
  revert o
  decide +kernel

theorem flagOf_eq_some_iff {o : Byte} {b : Bool} : flagOf o = some b ↔ o.toNat ≤ 1 ∧ b = decide (o = 1) := by
  revert o b
  decide +kernel

/-- The valid flags are 0 for no and 1 for yes. -/
theorem flagOf_eq_some_iff_code {o : Byte} {b : Bool} : flagOf o = some b ↔ o = flagCode b := by
  revert o b
  decide +kernel

theorem flagOf_eq_none {o : Byte} (h : 2 ≤ o.toNat) : flagOf o = none := by
  refine Option.eq_none_iff_forall_ne_some.2 fun b hb => ?_
  have := (flagOf_eq_some_iff.1 hb).1
  omega

theorem lineOfCode_eq_some_iff {o : Byte} {x : Line} : Line.ofCode o = some x ↔ o = x.code := by
  constructor
  · intro h
    unfold Line.ofCode at h
    split_ifs at h with ha hb hl <;> obtain rfl := Option.some.inj h
    · exact ha
    · exact hb
    · exact hl
  · rintro rfl
    exact lineOfCode_code x

theorem LineSet.ofCode_eq_some_iff {o : Byte} {e : LineSet} :
    LineSet.ofCode o = some e ↔ (1 ≤ o.toNat ∧ o.toNat ≤ 7) ∧ e = ⟨o.getLsbD 0, o.getLsbD 1, o.getLsbD 2⟩ := by
  unfold LineSet.ofCode
  split_ifs with h
  · simp [h, eq_comm]
  · simp [h]

theorem QClass.ofCode_eq_some_iff {o : Byte} {c : QClass} :
    QClass.ofCode o = some c ↔ o.toNat ≤ 1 ∧ c = if o = 1 then .urgent else .normal := by
  rw [octet_le_one_iff]
  by_cases h0 : o = 0
  · subst h0
    simp [QClass.ofCode, eq_comm]
  · by_cases h1 : o = 1
    · subst h1
      simp [QClass.ofCode, eq_comm]
    · rw [QClass.ofCode, if_neg h0, if_neg h1]
      exact ⟨(nomatch ·), fun ⟨hvalid, _⟩ => absurd hvalid (by rintro (h | h); exacts [h0 h, h1 h])⟩

/-! ### Route bodies and line configuration records (sections 1.7.1 to 1.7.3) -/

/-- The default route bodies that the part accepts are the valid ones of R151. -/
theorem DefaultRoute.ofOctets_eq_some_iff {bs : List Byte} {r : DefaultRoute} :
    DefaultRoute.ofOctets bs = some r ↔ DefaultRoute.validBody bs r := by
  constructor
  · intro h
    unfold DefaultRoute.ofOctets at h
    split at h
    next action egress cls =>
      split_ifs at h with hforward hdiscard
      · split at h
        next e c he hc =>
          obtain ⟨hrange, rfl⟩ := LineSet.ofCode_eq_some_iff.1 he
          obtain ⟨hcls, rfl⟩ := QClass.ofCode_eq_some_iff.1 hc
          exact .inl ⟨egress, cls, by rw [hforward], hrange, hcls, (Option.some.inj h).symm⟩
        next => cases h
      · obtain ⟨rfl, rfl, rfl⟩ := hdiscard
        exact .inr ⟨rfl, (Option.some.inj h).symm⟩
    next => cases h
  · rintro (⟨e, c, rfl, hrange, hcls, rfl⟩ | ⟨rfl, rfl⟩)
    · simp [DefaultRoute.ofOctets, LineSet.ofCode_eq_some_iff.2 ⟨hrange, rfl⟩, QClass.ofCode_eq_some_iff.2 ⟨hcls, rfl⟩]
    · rfl

/-- The route bodies that the part accepts are the valid ones of R151. -/
theorem Route.ofOctets_eq_some_iff {bs : List Byte} {r : Route} {w : Nat} :
    Route.ofOctets bs = some (r, w) ↔ Route.validBody bs r w := by
  constructor
  · intro h
    unfold Route.ofOctets at h
    split at h
    next action egress cls present value window =>
      split at h
      next hforward =>
        split at h
        next e c he hc hpresent =>
          obtain ⟨hwindow, h⟩ := Option.ite_none_right_eq_some.1 h
          obtain ⟨hrange, rfl⟩ := LineSet.ofCode_eq_some_iff.1 he
          obtain ⟨hcls, rfl⟩ := QClass.ofCode_eq_some_iff.1 hc
          obtain ⟨rfl, rfl⟩ := Prod.mk.inj (Option.some.inj h)
          exact .inl ⟨egress, cls, value, window, by rw [hforward, flagOf_eq_some_iff_code.1 hpresent]; rfl, hrange, hcls,
            hwindow, rfl, rfl⟩
        next e c he hc hpresent =>
          obtain ⟨⟨rfl, hwindow⟩, hbody⟩ := Option.ite_none_right_eq_some.1 h
          obtain ⟨hrange, rfl⟩ := LineSet.ofCode_eq_some_iff.1 he
          obtain ⟨hcls, rfl⟩ := QClass.ofCode_eq_some_iff.1 hc
          obtain ⟨rfl, rfl⟩ := Prod.mk.inj (Option.some.inj hbody)
          exact .inr (.inl ⟨egress, cls, window, by rw [hforward, flagOf_eq_some_iff_code.1 hpresent]; rfl, hrange, hcls,
            hwindow, rfl, rfl⟩)
        next => cases h
      next =>
        obtain ⟨⟨rfl, rfl, rfl, rfl, rfl, rfl⟩, hbody⟩ := Option.ite_none_right_eq_some.1 h
        obtain ⟨rfl, rfl⟩ := Prod.mk.inj (Option.some.inj hbody)
        exact .inr (.inr ⟨rfl, rfl, rfl⟩)
    next => cases h
  · rintro (⟨e, c, v, w', rfl, hrange, hcls, hwindow, rfl, rfl⟩ | ⟨e, c, w', rfl, hrange, hcls, hwindow, rfl, rfl⟩ |
      ⟨rfl, rfl, rfl⟩)
    · simp [Route.ofOctets, LineSet.ofCode_eq_some_iff.2 ⟨hrange, rfl⟩, QClass.ofCode_eq_some_iff.2 ⟨hcls, rfl⟩, flagOf,
        hwindow]
    · simp [Route.ofOctets, LineSet.ofCode_eq_some_iff.2 ⟨hrange, rfl⟩, QClass.ofCode_eq_some_iff.2 ⟨hcls, rfl⟩, flagOf,
        hwindow]
    · rfl

/-- The records that LINE-SET accepts are those within the ranges of section 1.7.3. -/
theorem LineConfig.validRecord_iff {bs : List Byte} {c : LineConfig} :
    LineConfig.validRecord bs c ↔ LineConfig.ofOctets bs = some c ∧ c.legal = true := by
  constructor
  · rintro ⟨s1, s2, g, d1, d0, a1, a0, u1, u0, n1, n0, p, rfl, hblk, hsyn, hgap, hdeadline, hage, hurgent, hnormal, hp, rfl⟩
    have hflag : flagOf p = some (decide (p = 1)) := flagOf_eq_some_iff.2 ⟨octet_le_one_iff.2 hp, rfl⟩
    exact ⟨by simp [LineConfig.ofOctets, hflag],
      decide_eq_true ⟨hblk, hsyn, hgap, hdeadline, hage, hurgent, hnormal⟩⟩
  · rintro ⟨hoctets, hlegal⟩
    unfold LineConfig.ofOctets at hoctets
    split at hoctets
    next s1 s2 g d1 d0 a1 a0 u1 u0 n1 n0 p =>
      obtain ⟨permitted, hflag, rfl⟩ := Option.map_eq_some_iff.1 hoctets
      obtain ⟨hle, rfl⟩ := flagOf_eq_some_iff.1 hflag
      obtain ⟨hblk, hsyn, hgap, hdeadline, hage, hurgent, hnormal⟩ := of_decide_eq_true hlegal
      exact ⟨s1, s2, g, d1, d0, a1, a0, u1, u0, n1, n0, p, rfl, hblk, hsyn, hgap, hdeadline, hage, hurgent, hnormal,
        octet_le_one_iff.1 hle, rfl⟩
    next => cases hoctets

end Sys2Proof.Machine

/-! PROOF. The requests of chapter 8 that are answered from the configuration, the Route Table, the counters and the Notice
Emitter: which response each parameter list draws. -/

namespace Sys2Proof.Machine

/-! ### Identification, the own station address, REINIT -/

theorem exec_identify_of_requested (s : State) (ss : Session) (h : RecordHead) (params : List Byte)
    (hreq : s.requested ss h 0x01 params) : exec .identify s = .next (s.answer h .ok identifyData) := by
  have harm : exec .identify s = .next (s.atRecord fun s => s.serve 0x01 respondIdentify) := rfl
  rw [harm, s.atRecord_serve_of_requested ss h _ _ _ hreq]
  rfl

theorem exec_selfSet_of_requested (s : State) (ss : Session) (h : RecordHead) (o : Byte)
    (hreq : s.requested ss h 0x0E [o]) : exec .selfSet s = .next ({ s with self := o }.answer h .ok []) := by
  have harm : exec .selfSet s = .next (s.atRecord fun s => s.serve 0x0E respondSelfSet) := rfl
  rw [harm, s.atRecord_serve_of_requested ss h _ _ _ hreq]
  rfl

theorem exec_reinit_of_requested (s : State) (ss : Session) (h : RecordHead) (params : List Byte)
    (hreq : s.requested ss h 0x10 params) :
    exec .reinit s = .next ({ s with engine := { s.engine with state := .reinitPending } }.answer h .ok []) := by
  have harm : exec .reinit s = .next (s.atRecord fun s => s.serve 0x10 respondReinit) := rfl
  rw [harm, s.atRecord_serve_of_requested ss h _ _ _ hreq]
  rfl

/-- Settles O40: each of the three is accepted whatever its parameters. -/
theorem identifySelfSetReinit : Obligations.IdentifySelfSetReinit := by
  intro s ss h params
  refine ⟨exec_identify_of_requested s ss h params, fun o hreq hparams => ?selfSet, exec_reinit_of_requested s ss h params⟩
  case selfSet =>
    subst hparams
    exact exec_selfSet_of_requested s ss h o hreq

/-! ### LINE-SET (R143 to R146) -/

theorem exec_lineSet_of_requested (s : State) (ss : Session) (h : RecordHead) (params : List Byte)
    (hreq : s.requested ss h 0x02 params) : exec .lineSet s = .next ((respondLineSet ss params s).written h) := by
  have harm : exec .lineSet s = .next (s.atRecord fun s => s.serve 0x02 respondLineSet) := rfl
  rw [harm, s.atRecord_serve_of_requested ss h _ _ _ hreq]

theorem respondLineSet_of_invalid (ss : Session) (params : List Byte) (s : State)
    (hinvalid : ∀ (x : Line) (c : LineConfig) (body : List Byte), params = x.code :: body → ¬LineConfig.validRecord body c) :
    respondLineSet ss params s = refuse .badParameter s := by
  unfold respondLineSet
  split
  next code body =>
    split
    next x c hline hoctets =>
      refine if_pos (Bool.eq_false_iff.2 fun hlegal => hinvalid x c body ?_ (LineConfig.validRecord_iff.2 ⟨hoctets, hlegal⟩))
      rw [lineOfCode_eq_some_iff.1 hline]
    next => rfl
  next => rfl

theorem respondLineSet_of_valid (ss : Session) (x : Line) (c : LineConfig) (body : List Byte) (s : State)
    (hvalid : LineConfig.validRecord body c) :
    respondLineSet ss (x.code :: body) s =
      if s.lockedOut ss x c then refuse .lockout s else accept [] (s.setConfig x c) := by
  obtain ⟨hoctets, hlegal⟩ := LineConfig.validRecord_iff.1 hvalid
  simp [respondLineSet, hoctets, hlegal]

/-- The two tests of R144: permission is withdrawn from the request's own line, or from the last line that has it. -/
theorem State.lockedOut_iff (s : State) (ss : Session) (x : Line) (c : LineConfig) :
    s.lockedOut ss x c = true ↔ c.permitted = false ∧
      ((s.buf.desc ss.request).ingress = some x ∨ ∀ y, y ≠ x → (s.config.get y).permitted = false) := by
  have hlast (hc : c.permitted = false) :
      ([Line.a, Line.b, Line.l].all fun y => !((s.config.set x c).get y).permitted) = true ↔
        ∀ y, y ≠ x → (s.config.get y).permitted = false := by
    rw [List.all_eq_true]
    constructor
    · intro hall y hy
      have := hall y (by cases y <;> simp)
      rwa [PerLine.get_set_other _ _ hy, Bool.not_eq_true'] at this
    · intro hothers y _
      by_cases hy : y = x
      · rw [hy, PerLine.get_set_same, hc]
        rfl
      · rw [PerLine.get_set_other _ _ hy, hothers y hy]
        rfl
  rw [State.lockedOut, Bool.and_eq_true, Bool.not_eq_true', Bool.or_eq_true, decide_eq_true_iff]
  exact and_congr_right fun hc => or_congr_right (hlast hc)

/-- Settles O41: the response is by the validity of the record, then by the tests of R144, and an accepted record with a new
sync pair restarts the receiver as R32 has it. -/
theorem lineSetReplacesOrRefuses : Obligations.LineSetReplacesOrRefuses := by
  intro s ss h params hreq
  rw [exec_lineSet_of_requested s ss h params hreq]
  refine ⟨fun hinvalid => ?invalid, ?valid⟩
  case invalid => rw [respondLineSet_of_invalid ss params s hinvalid, Response.written_refuse]
  case valid =>
    rintro x c body rfl hvalid
    rw [respondLineSet_of_valid ss x c body s hvalid]
    refine ⟨fun hc hlast => ?locked, fun hopen => ?set⟩
    case locked => rw [if_pos ((s.lockedOut_iff ss x c).2 ⟨hc, hlast⟩), Response.written_refuse]
    case set =>
      have hnot : ¬s.lockedOut ss x c = true := by
        rw [State.lockedOut_iff]
        rintro ⟨hc, hlast⟩
        rcases hopen with hp | ⟨hingress, y, hy, hp⟩
        · exact absurd hp (by simp [hc])
        · rcases hlast with hown | hothers
          · exact hingress hown
          · exact absurd hp (by simp [hothers y hy])
      rw [if_neg hnot, Response.written_accept]
      refine ⟨fun h1 h2 => ?same, fun hchanged => ?changed⟩
      case same => rw [State.setConfig, if_pos ⟨h1, h2⟩]
      case changed =>
        have hpair : ¬((s.config.get x).syn1 = c.syn1 ∧ (s.config.get x).syn2 = c.syn2) :=
          fun ⟨h1, h2⟩ => hchanged.elim (· h1) (· h2)
        rw [State.setConfig, if_neg hpair]
        exact ⟨_, rfl, State.restarted_restart _ x⟩

/-! ### DEFAULT-SET (R157) -/

/-- Settles O45: the response is by the line code and the validity of the body. -/
theorem defaultSetReplacesTheRoute : Obligations.DefaultSetReplacesTheRoute := by
  intro s ss h code body hreq
  have harm : exec .defaultSet s = .next (s.atRecord fun s => s.serve 0x06 respondDefaultSet) := rfl
  rw [harm, s.atRecord_serve_of_requested ss h _ _ _ hreq]
  refine ⟨?accepted, fun hinvalid => ?refused⟩
  case accepted =>
    rintro x r rfl hvalid
    simp [respondDefaultSet, DefaultRoute.ofOctets_eq_some_iff.2 hvalid]
  case refused =>
    have hrefuse : respondDefaultSet ss (code :: body) s = refuse .badParameter s := by
      rcases hinvalid with hcode | hbody
      · simp [respondDefaultSet, lineOfCode_eq_none code hcode]
      · have hnone : DefaultRoute.ofOctets body = none :=
          Option.eq_none_iff_forall_ne_some.2 fun r hr => hbody r (DefaultRoute.ofOctets_eq_some_iff.1 hr)
        simp [respondDefaultSet, hnone]
    rw [hrefuse, Response.written_refuse]

/-! ### The keys of the Route Table (R59, R63) -/

theorem Slot.matches_iff {x : Line} {dst : Byte} {v : Slot} :
    v.matches x dst = true ↔ ∃ e, v = .active e ∧ e.keyLine = x ∧ e.keyDst = dst := by
  cases v <;> simp [Slot.matches]

theorem RouteTable.slot_eq_active_iff {r : RouteTable} {n : Nat} {e : Entry} :
    r.slot n = .active e ↔ r.slots[n]? = some (.active e) := by
  rw [RouteTable.slot, List.getD_eq_getElem?_getD]
  cases r.slots[n]? <;> simp

theorem RouteTable.find_eq_none {r : RouteTable} {x : Line} {dst : Byte}
    (h : ∀ v ∈ r.slots, v.matches x dst = false) : r.find x dst = none :=
  List.findIdx?_eq_none_iff.2 h

/-- What the lookup finds is an ACTIVE slot with the key. -/
theorem RouteTable.slot_of_find {r : RouteTable} {x : Line} {dst : Byte} {n : Nat} (h : r.find x dst = some n) :
    ∃ e, r.slot n = .active e ∧ e.keyLine = x ∧ e.keyDst = dst := by
  obtain ⟨hn, hmatch, -⟩ := List.findIdx?_eq_some_iff_getElem.1 h
  obtain ⟨e, he, hkey⟩ := Slot.matches_iff.1 hmatch
  exact ⟨e, RouteTable.slot_eq_active_iff.2 (by rw [List.getElem?_eq_getElem hn, he]), hkey⟩

/-- A key that an ACTIVE slot has is found. -/
theorem RouteTable.find_isSome {r : RouteTable} {x : Line} {dst : Byte} {n : Nat} {e : Entry} (he : r.slot n = .active e)
    (hline : e.keyLine = x) (hdst : e.keyDst = dst) : ∃ m, r.find x dst = some m := by
  cases hfind : r.find x dst with
  | some m => exact ⟨m, rfl⟩
  | none => exact absurd ⟨hline, hdst⟩ (r.slot_of_find_none x dst hfind n e he)

/-- Where keys are distinct the lookup finds the one slot that has the key. -/
theorem State.find_of_key {s : State} {x : Line} {dst : Byte} {n : Nat} {e : Entry} (hunique : s.KeysUnique)
    (he : s.routes.slot n = .active e) (hline : e.keyLine = x) (hdst : e.keyDst = dst) : s.routes.find x dst = some n := by
  obtain ⟨m, hm⟩ := RouteTable.find_isSome he hline hdst
  obtain ⟨f, hf, hfline, hfdst⟩ := RouteTable.slot_of_find hm
  rw [hm, hunique n m e f he hf (hline.trans hfline.symm) (hdst.trans hfdst.symm)]

theorem RouteTable.lowestFree_eq_none {r : RouteTable} (h : ∀ v ∈ r.slots, v ≠ .free) : r.lowestFree = none :=
  List.findIdx?_eq_none_iff.2 fun v hv => decide_eq_false (h v hv)

theorem RouteTable.lowestFree_eq_some {r : RouteTable} {n : Nat} (hfree : r.slots[n]? = some .free)
    (hlower : ∀ v ∈ r.slots.take n, v ≠ .free) : r.lowestFree = some n := by
  obtain ⟨hn, hget⟩ := List.getElem?_eq_some_iff.1 hfree
  refine List.findIdx?_eq_some_iff_getElem.2 ⟨hn, decide_eq_true hget, fun j hj => ?_⟩
  have hmem : r.slots[j] ∈ r.slots.take n := List.mem_take_iff_getElem.2 ⟨j, by omega, rfl⟩
  simpa using hlower _ hmem

/-! ### ROUTE-INSERT (R152, R73) -/

theorem exec_routeInsert_of_requested (s : State) (ss : Session) (h : RecordHead) (params : List Byte)
    (hreq : s.requested ss h 0x07 params) : exec .routeInsert s = .next ((respondRouteInsert ss params s).written h) := by
  have harm : exec .routeInsert s = .next (s.atRecord fun s => s.serve 0x07 respondRouteInsert) := rfl
  rw [harm, s.atRecord_serve_of_requested ss h _ _ _ hreq]

theorem Route.ofOctets_eq_none {bs : List Byte} (h : ∀ r w, ¬Route.validBody bs r w) : Route.ofOctets bs = none :=
  Option.eq_none_iff_forall_ne_some.2 fun ⟨r, w⟩ hr => h r w (Route.ofOctets_eq_some_iff.1 hr)

/-- Settles O46: the four cases of R152 in the order of its tests. -/
theorem routeInsertTakesTheLowestFreeSlot : Obligations.RouteInsertTakesTheLowestFreeSlot := by
  intro s ss h line dst body hreq
  rw [exec_routeInsert_of_requested s ss h _ hreq]
  refine ⟨fun hinvalid => ?invalid, ?valid⟩
  case invalid =>
    have hrefuse : respondRouteInsert ss (line :: dst :: body) s = refuse .badParameter s := by
      rcases hinvalid with hline | hbody
      · simp [respondRouteInsert, lineOfCode_eq_none line hline]
      · simp [respondRouteInsert, Route.ofOctets_eq_none hbody]
    rw [hrefuse, Response.written_refuse]
  case valid =>
    rintro x r w rfl hvalid
    have hbody := Route.ofOctets_eq_some_iff.2 hvalid
    refine ⟨fun n e he hline hdst => ?taken, fun hnew hfull => ?full, fun n hnew hfree hlower => ?inserted⟩
    case taken =>
      obtain ⟨m, hfind⟩ := RouteTable.find_isSome he hline hdst
      simp [respondRouteInsert, hbody, hfind]
    case full =>
      simp [respondRouteInsert, hbody, RouteTable.find_eq_none hnew, RouteTable.lowestFree_eq_none hfull]
    case inserted =>
      have hset : respondRouteInsert ss (x.code :: dst :: body) s = accept [loOctet n]
          (s.setSlot n (.active { keyLine := x, keyDst := dst, route := r, seqCheck := SeqCheck.given w })) := by
        simp [respondRouteInsert, hbody, RouteTable.find_eq_none hnew, RouteTable.lowestFree_eq_some hfree hlower]
      rw [hset]
      rfl

/-! ### ROUTE-UPDATE and ROUTE-DELETE (R153, R154) -/

/-- A slot that is not ACTIVE is FREE or RETIRING. -/
theorem Slot.not_active {v : Slot} (h : ∀ e, v ≠ .active e) : v = .free ∨ ∃ e, v = .retiring e := by
  cases v with
  | free => exact .inl rfl
  | active e => exact absurd rfl (h e)
  | retiring e => exact .inr ⟨e, rfl⟩

/-- What R75 makes of an entry's sequence check. -/
theorem Entry.updated_eq (e : Entry) (r : Route) (w : Nat) (clear : Bool) :
    e.updated r w clear =
      ⟨e.keyLine, e.keyDst, r,
        if w = 0 then none
        else match e.seqCheck with
          | none => some ⟨w, 0, false⟩
          | some k => some ⟨w, k.expected, k.primed⟩,
        if clear then 0 else e.blocks, if clear then 0 else e.octets, if clear then 0 else e.duplicates,
        if clear then 0 else e.gaps, e.binds⟩ := by
  obtain ⟨keyLine, keyDst, route, seqCheck, blocks, octets, duplicates, gaps, binds⟩ := e
  cases seqCheck <;> cases clear <;> rfl

/-- Settles O47: the refusals of R153 in their order, and `Entry.updated`. -/
theorem routeUpdateKeepsKeyAndBinds : Obligations.RouteUpdateKeepsKeyAndBinds := by
  intro s ss h n line dst clear body hlen hreq
  obtain ⟨p0, p1, p2, p3, p4, p5, rfl⟩ : ∃ p0 p1 p2 p3 p4 p5, body = [p0, p1, p2, p3, p4, p5] := by
    match body, hlen with
    | [p0, p1, p2, p3, p4, p5], _ => exact ⟨p0, p1, p2, p3, p4, p5, rfl⟩
  have harm : exec .routeUpdate s = .next (s.atRecord fun s => s.serve 0x08 respondRouteUpdate) := rfl
  rw [harm, s.atRecord_serve_of_requested ss h _ _ _ hreq]
  refine ⟨fun hinvalid => ?invalid, ?valid⟩
  case invalid =>
    have hrefuse : respondRouteUpdate ss [n, line, dst, p0, p1, p2, p3, p4, p5, clear] s = refuse .badParameter s := by
      rcases hinvalid with hline | hclear | hbody
      · simp [respondRouteUpdate, lineOfCode_eq_none line hline]
      · simp [respondRouteUpdate, flagOf_eq_none hclear]
      · simp [respondRouteUpdate, Route.ofOctets_eq_none hbody]
    exact congrArg (fun r : Response => Host.Outcome.next (r.written h)) hrefuse
  case valid =>
    rintro x r w rfl hclear hvalid
    have hbody := Route.ofOctets_eq_some_iff.2 hvalid
    have hflag : flagOf clear = some (decide (clear = 1)) := flagOf_eq_some_iff.2 ⟨hclear, rfl⟩
    refine ⟨fun hinactive => ?noSlot, fun e he hkey => ?mismatch, fun e he hline hdst => ?updated⟩
    case noSlot =>
      rcases Slot.not_active hinactive with hslot | ⟨e, hslot⟩ <;> simp [respondRouteUpdate, hbody, hflag, hslot]
    case mismatch => simp [respondRouteUpdate, hbody, hflag, he, hkey]
    case updated =>
      have hset : respondRouteUpdate ss [n, x.code, dst, p0, p1, p2, p3, p4, p5, clear] s =
          accept [] (s.setSlot n.toNat (.active (e.updated r w (decide (clear = 1))))) := by
        simp [respondRouteUpdate, hbody, hflag, he, hline, hdst]
      refine congrArg Host.Outcome.next ((congrArg (·.written h) hset).trans ?_)
      rw [Response.written_accept, Entry.updated_eq]
      simp only [decide_eq_true_eq]
      rfl

/-- Settles O48: the refusals of R154 in their order, and the slot freed or retired by its binds. -/
theorem routeDeleteFreesOrRetires : Obligations.RouteDeleteFreesOrRetires := by
  intro s ss h n line dst hreq
  have harm : exec .routeDelete s = .next (s.atRecord fun s => s.serve 0x09 respondRouteDelete) := rfl
  rw [harm, s.atRecord_serve_of_requested ss h _ _ _ hreq]
  refine ⟨fun hline => ?invalid, ?valid⟩
  case invalid => simp [respondRouteDelete, lineOfCode_eq_none line hline]
  case valid =>
    rintro x rfl
    refine ⟨fun hinactive => ?noSlot, fun e he hkey => ?mismatch, fun e he hline hdst hbinds => ?freed,
      fun e he hline hdst hbinds => ?retired⟩
    case noSlot =>
      rcases Slot.not_active hinactive with hslot | ⟨e, hslot⟩ <;> simp [respondRouteDelete, hslot]
    case mismatch => simp [respondRouteDelete, he, hkey]
    case freed =>
      have hset : respondRouteDelete ss [n, x.code, dst] s = accept [0x00] (s.setSlot n.toNat .free) := by
        simp [respondRouteDelete, he, hline, hdst, hbinds]
      rw [hset]
      rfl
    case retired =>
      have hset : respondRouteDelete ss [n, x.code, dst] s = accept [0x02] (s.setSlot n.toNat (.retiring e)) := by
        simp [respondRouteDelete, he, hline, hdst, Nat.pos_iff_ne_zero.1 hbinds]
      rw [hset]
      rfl

/-! ### ROUTE-READ and ROUTE-FIND (R155, R156) -/

/-- Settles O49: the entry as `Entry.readData` writes it, and the lookup. -/
theorem routeReadAndRouteFind : Obligations.RouteReadAndRouteFind := by
  intro s ss h
  refine ⟨fun n hreq => ?read, fun line dst hreq => ?find⟩
  case read =>
    have harm : exec .routeRead s = .next (s.atRecord fun s => s.serve 0x0A respondRouteRead) := rfl
    rw [harm, s.atRecord_serve_of_requested ss h _ _ _ hreq]
    refine ⟨fun hinactive => ?noSlot, fun e he => ?reports⟩
    case noSlot =>
      rcases Slot.not_active hinactive with hslot | ⟨e, hslot⟩ <;> simp [respondRouteRead, hslot]
    case reports =>
      have hread : respondRouteRead ss [n] s = accept (n :: e.readData) s := by simp [respondRouteRead, he]
      obtain ⟨keyLine, keyDst, route, seqCheck, blocks, octets, duplicates, gaps, binds⟩ := e
      rw [hread, Response.written_accept]
      rcases route with ⟨egress, cls, _ | v⟩ | _ <;> rcases seqCheck with _ | k <;> (try cases cls) <;> rfl
  case find =>
    have harm : exec .routeFind s = .next (s.atRecord fun s => s.serve 0x0B respondRouteFind) := rfl
    rw [harm, s.atRecord_serve_of_requested ss h _ _ _ hreq]
    refine ⟨fun hline => ?invalid, ?valid⟩
    case invalid => simp [respondRouteFind, lineOfCode_eq_none line hline]
    case valid =>
      rintro x rfl
      refine ⟨fun hnone => ?none, fun n e hunique he hline hdst => ?found⟩
      case none => simp [respondRouteFind, RouteTable.find_eq_none hnone]
      case found =>
        have hanswer : respondRouteFind ss [x.code, dst] s = accept [loOctet n] s := by
          simp [respondRouteFind, State.find_of_key hunique he hline hdst]
        rw [hanswer]
        rfl

/-! ### NOTICE-SET (R160, R161) -/

/-- Settles O51: in a quiet part no event is on its way to the emitter, so the record written is the whole emitter. -/
theorem noticeSetConfiguresTheEmitter : Obligations.NoticeSetConfiguresTheEmitter := by
  intro s ss h enable station line i1 i0 hreq
  have harm : exec .noticeSet s = .next (s.atRecord fun s => s.serve 0x0D respondNoticeSet) := rfl
  rw [harm, s.atRecord_serve_of_requested ss h _ _ _ hreq]
  refine ⟨fun hinvalid => ?refused, ?accepted⟩
  case refused =>
    have hrefuse : respondNoticeSet ss [enable, station, line, i1, i0] s = refuse .badParameter s := by
      rcases hinvalid with henable | hline | hrange
      · simp [respondNoticeSet, flagOf_eq_none henable]
      · simp [respondNoticeSet, lineOfCode_eq_none line hline]
      · have hout : ¬(10 ≤ wordOf i1 i0 ∧ wordOf i1 i0 ≤ 10000) := by omega
        simp only [respondNoticeSet, if_neg hout]
        split <;> rfl
    rw [hrefuse, Response.written_refuse]
  case accepted =>
    rintro x henable rfl hmin hmax
    obtain ⟨⟨hquiet, -⟩, -⟩ := hreq
    obtain ⟨-, -, -, hinbox, -⟩ := s.quiet_iff.1 hquiet
    have hflag : flagOf enable = some (decide (enable = 1)) := flagOf_eq_some_iff.2 ⟨henable, rfl⟩
    simp [respondNoticeSet, hflag, hmin, hmax, hinbox]

end Sys2Proof.Machine

/-! PROOF. COUNTERS-READ (R158, R159): the members of each group, and what a read with clear leaves. -/

namespace Sys2Proof.Machine

/-! ### The groups -/

/-- A group or a subject that section 1.7.4 does not have is refused. -/
theorem State.readGroup_of_invalid (s : State) (group subject : Byte) (clear : Bool)
    (h : 5 ≤ group.toNat ∨ (group.toNat ≤ 1 ∧ 3 ≤ subject.toNat) ∨ (3 ≤ group.toNat ∧ subject ≠ 0)) :
    s.readGroup group subject clear = refuse .badParameter s := by
  unfold State.readGroup
  split
  next hgroup =>
    subst hgroup
    rw [lineOfCode_eq_none subject (by simp at h; omega)]
  next =>
    split
    next hgroup =>
      subst hgroup
      rw [lineOfCode_eq_none subject (by simp at h; omega)]
    next =>
      split
      next hgroup =>
        subst hgroup
        simp at h
      next =>
        have hsubject (v : Byte) (hv : v.toNat = 3 ∨ v.toNat = 4) : ¬(group = v ∧ subject = 0) := by
          rintro ⟨rfl, hzero⟩
          rcases h with h | ⟨h, -⟩ | ⟨-, h⟩
          · omega
          · omega
          · exact h hzero
        rw [if_neg (hsubject 3 (by decide)), if_neg (hsubject 4 (by decide))]

theorem State.readGroup_rx (s : State) (x : Line) (clear : Bool) :
    s.readGroup 0 x.code clear =
      accept (countersData 0 x.code (s.count.rx.get x).members) (if clear then s.countRx x fun _ => {} else s) := by
  simp [State.readGroup]

theorem State.readGroup_tx (s : State) (x : Line) (clear : Bool) :
    s.readGroup 1 x.code clear =
      accept (countersData 1 x.code (s.count.tx.get x).members) (if clear then s.countTx x fun _ => {} else s) := by
  simp [State.readGroup]

theorem State.readGroup_slot_free (s : State) (n : Byte) (clear : Bool) (h : s.routes.slot n.toNat = .free) :
    s.readGroup 2 n clear = refuse .noSuchSlot s := by
  simp [State.readGroup, h]

theorem State.readGroup_slot_active (s : State) (n : Byte) (clear : Bool) (e : Entry)
    (h : s.routes.slot n.toNat = .active e) :
    s.readGroup 2 n clear =
      accept (countersData 2 n [e.blocks, e.octets, e.duplicates, e.gaps])
        (if clear then s.setSlot n.toNat (.active e.cleared) else s) := by
  simp [State.readGroup, h]

theorem State.readGroup_slot_retiring (s : State) (n : Byte) (clear : Bool) (e : Entry)
    (h : s.routes.slot n.toNat = .retiring e) :
    s.readGroup 2 n clear =
      accept (countersData 2 n [e.blocks, e.octets, e.duplicates, e.gaps])
        (if clear then s.setSlot n.toNat (.retiring e.cleared) else s) := by
  simp [State.readGroup, h]

theorem State.readGroup_buffer (s : State) (clear : Bool) :
    s.readGroup 3 0 clear =
      accept (countersData 3 0 s.buf.members) (if clear then { s with buf := s.buf.clearMarks } else s) := by
  simp [State.readGroup]

theorem State.readGroup_engine (s : State) (clear : Bool) :
    s.readGroup 4 0 clear =
      accept (countersData 4 0 s.count.engine.members) (if clear then s.countEngine fun _ => {} else s) := by
  simp [State.readGroup]

/-! ### The request -/

theorem exec_countersRead_of_requested (s : State) (ss : Session) (h : RecordHead) (group subject clear : Byte)
    (hreq : s.requested ss h 0x0C [group, subject, clear]) :
    exec .countersRead s = .next ((respondCountersRead ss [group, subject, clear] s).written h) := by
  have harm : exec .countersRead s = .next (s.atRecord fun s => s.serve 0x0C respondCountersRead) := rfl
  rw [harm, s.atRecord_serve_of_requested ss h _ _ _ hreq]

theorem respondCountersRead_of_flag (ss : Session) (group subject clear : Byte) (s : State) (h : clear.toNat ≤ 1) :
    respondCountersRead ss [group, subject, clear] s = s.readGroup group subject (decide (clear = 1)) := by
  simp [respondCountersRead, flagOf_eq_some_iff.2 ⟨h, rfl⟩]

/-- A group that is read and perhaps cleared is reported by its members' octets. -/
theorem exec_countersRead_of_group (s u : State) (ss : Session) (h : RecordHead) (group subject clear : Byte)
    (members : List Nat) (hreq : s.requested ss h 0x0C [group, subject, clear]) (hclear : clear.toNat ≤ 1)
    (hgroup : ∀ cl : Bool,
      s.readGroup group subject cl = accept (countersData group subject members) (if cl then u else s)) :
    exec .countersRead s =
      .next ((if clear = 1 then u else s).answer h .ok (countersData group subject members)) := by
  rw [exec_countersRead_of_requested s ss h _ _ _ hreq, respondCountersRead_of_flag ss group subject clear s hclear, hgroup,
    Response.written_accept]
  simp only [decide_eq_true_eq]

/-- Settles O50: group by group, the members and the part with the group cleared. -/
theorem countersReadReportsAndClears : Obligations.CountersReadReportsAndClears := by
  intro s ss h group subject clear hreq report
  refine ⟨fun hinvalid => ?refused, fun hclear => ?reported⟩
  case refused =>
    rw [exec_countersRead_of_requested s ss h _ _ _ hreq]
    have hrefuse : respondCountersRead ss [group, subject, clear] s = refuse .badParameter s := by
      rcases Nat.lt_or_ge 1 clear.toNat with hclear | hclear
      · simp [respondCountersRead, flagOf_eq_none hclear]
      · rw [respondCountersRead_of_flag ss group subject clear s hclear]
        exact s.readGroup_of_invalid group subject _ (hinvalid.resolve_left (by omega))
    rw [hrefuse, Response.written_refuse]
  case reported =>
    have hreport (u : State) (members : List Nat) (hgroup : ∀ cl : Bool,
        s.readGroup group subject cl = accept (countersData group subject members) (if cl then u else s)) :
        report u members :=
      exec_countersRead_of_group s u ss h group subject clear members hreq hclear hgroup
    refine ⟨?rx, ?tx, ?free, ?active, ?retiring, ?buffer, ?engine⟩
    case rx =>
      rintro x rfl rfl
      exact hreport _ _ (s.readGroup_rx x)
    case tx =>
      rintro x rfl rfl
      exact hreport _ _ (s.readGroup_tx x)
    case free =>
      rintro rfl hfree
      rw [exec_countersRead_of_requested s ss h _ _ _ hreq, respondCountersRead_of_flag ss _ _ _ s hclear,
        s.readGroup_slot_free _ _ hfree, Response.written_refuse]
    case active =>
      rintro e rfl he
      exact hreport _ _ fun cl => s.readGroup_slot_active subject cl e he
    case retiring =>
      rintro e rfl he
      exact hreport _ _ fun cl => s.readGroup_slot_retiring subject cl e he
    case buffer =>
      rintro rfl rfl
      exact hreport _ _ s.readGroup_buffer
    case engine =>
      rintro rfl rfl
      exact hreport _ _ s.readGroup_engine

end Sys2Proof.Machine

/-! PROOF. What the basic updates change, and the receivers outside a block: HUNT, GAP, GAP-SYN, the expiry of a deadline
and the beginning of a block (chapter 2). -/

namespace Sys2Proof.Machine

/-! ### What the basic updates change -/

theorem State.changesOnly_refl (s : State) (ps : List Part) : s.changesOnly s ps := by
  intro p _
  cases p <;> simp [Part.same]

theorem State.changesOnly_countRx (s : State) (x : Line) (f : RxCounters → RxCounters) :
    s.changesOnly (s.countRx x f) [.rxCount x] := by
  intro p hp
  cases p
  case rxCount y => exact PerLine.get_modify_other _ _ (by simpa using hp)
  all_goals simp [Part.same]

theorem State.changesOnly_countTx (s : State) (x : Line) (f : TxCounters → TxCounters) :
    s.changesOnly (s.countTx x f) [.txCount x] := by
  intro p hp
  cases p
  case txCount y => exact PerLine.get_modify_other _ _ (by simpa using hp)
  all_goals simp [Part.same]

theorem State.changesOnly_countEngine (s : State) (f : EngineCounters → EngineCounters) :
    s.changesOnly (s.countEngine f) [.engineCount] := by
  intro p hp
  cases p
  case engineCount => simp at hp
  all_goals simp [Part.same]

theorem State.changesOnly_modTx (s : State) (x : Line) (f : Egress → Egress) : s.changesOnly (s.modTx x f) [.tx x] := by
  intro p hp
  cases p
  case tx y => exact PerLine.get_modify_other _ _ (by simpa using hp)
  all_goals simp [Part.same]

theorem State.changesOnly_modDesc (s : State) (d : Nat) (f : Descriptor → Descriptor) :
    s.changesOnly (s.modDesc d f) [.descs] := by
  intro p hp
  cases p
  case descs => simp at hp
  all_goals simp [Part.same]

theorem State.changesOnly_freeDesc (s : State) (d : Nat) :
    s.changesOnly (s.freeDesc d) [.pools, .descs, .emitter] := by
  intro p hp
  cases p
  case pools | descs | emitter => simp at hp
  all_goals simp [Part.same, State.freeDesc]

theorem State.changesOnly_owed (s : State) (owed : List TickTaker) : s.changesOnly { s with owed } [.owed] := by
  intro p hp
  cases p
  case owed => simp at hp
  all_goals simp [Part.same]

/-! ### One receiver changed -/

theorem State.modRx_congr (s : State) (x : Line) {f g : Receiver → Receiver} (h : f (s.rx.get x) = g (s.rx.get x)) :
    s.modRx x f = s.modRx x g := by
  simp only [State.modRx, PerLine.modify_eq_set, h]

theorem State.modRx_modRx (s : State) (x : Line) (f g : Receiver → Receiver) :
    (s.modRx x f).modRx x g = s.modRx x fun r => g (f r) := by
  simp [State.modRx]

/-! ### Octets as the receiver's state takes them (section 2.1) -/

/-- At an octet boundary of a quiet part the octet is in the history and is taken as the state gives. -/
theorem State.octet_taken (s : State) (x : Line) (o : Byte) (st : RxState) (h : s.hears x st) :
    s.running (fun s => s.receiveOctet x o) = (s.withOctet x o).takeOctet x o :=
  s.octet_of_hears x o st h

theorem State.takeOctet_of_gap (s : State) (x : Line) (o : Byte) (h : (s.rx.get x).state = .gap) :
    s.takeOctet x o = s.takeGap x o := by
  simp [State.takeOctet, h]

theorem State.takeOctet_of_gapSyn (s : State) (x : Line) (o : Byte) (h : (s.rx.get x).state = .gapSyn) :
    s.takeOctet x o = s.takeGapSyn x o := by
  simp [State.takeOctet, h]

theorem exec_octetInGap_of_hears (s : State) (x : Line) (o : Byte) (h : s.hears x .gap) :
    exec (.octetInGap x o) s = .next ((s.withOctet x o).takeGap x o) := by
  have ⟨_, hst, _⟩ := h
  have harm : exec (.octetInGap x o) s = .next (s.running fun s => s.receiveOctet x o) := rfl
  rw [harm, s.octet_taken x o .gap h, State.takeOctet_of_gap _ x o (by simpa using hst)]

theorem exec_octetInGapSyn_of_hears (s : State) (x : Line) (o : Byte) (h : s.hears x .gapSyn) :
    exec (.octetInGapSyn x o) s = .next ((s.withOctet x o).takeGapSyn x o) := by
  have ⟨_, hst, _⟩ := h
  have harm : exec (.octetInGapSyn x o) s = .next (s.running fun s => s.receiveOctet x o) := rfl
  rw [harm, s.octet_taken x o .gapSyn h, State.takeOctet_of_gapSyn _ x o (by simpa using hst)]

/-! ### HUNT (R14) -/

theorem pushBit_eq (h : List Bool) (b : Bool) : pushBit h b = (h ++ [b]).drop (h.length - 7) := by
  simp [pushBit]

/-- A bit in HUNT, before an alignment is fixed. -/
theorem State.receiveBit_of_unaligned (s : State) (x : Line) (bit : Bool) (h : (s.rx.get x).align = none) :
    s.receiveBit x bit =
      (s.modRx x fun r => { r with history := pushBit (s.rx.get x).history bit }).huntCompare x := by
  simp [State.receiveBit, h]

/-- Settles O8: both commands bring a bit, and the history's eight bits match SYN1 exactly when they are its bits. -/
theorem huntComparesEachBit : Obligations.HuntComparesEachBit := by
  intro s x bit i hi hquiet hst halign h
  have hexec : exec i s = .next (s.running fun s => s.receiveBit x bit) := by
    rcases hi with rfl | rfl <;> rfl
  have hh : h = pushBit (s.rx.get x).history bit := (pushBit_eq _ _).symm
  rw [hexec, s.running_of_quiet _ hquiet, s.receiveBit_of_unaligned x bit halign, ← hh]
  refine ⟨fun hmatch => ?found, fun hother => ?notFound⟩
  case found =>
    rw [State.huntCompare_of_match _ x (s.config.get x).syn1 ?history ?syn1, State.modRx_modRx]
    case history => simpa using hmatch
    case syn1 => rfl
    rfl
  case notFound =>
    rw [State.huntCompare, if_neg]
    · rfl
    · rw [octetBits_iff]
      simpa using hother

/-! ### A loss of synchronism outside a block (R19) -/

theorem State.returnBlock_of_no_descriptor (s : State) (x : Line) (h : (s.rx.get x).filling = none) :
    s.returnBlock x = s := by
  simp [State.returnBlock, h]

theorem Receiver.hunting_of_outside {r : Receiver} (h : r.outside) :
    r.hunting = { r with state := .hunt, ins := false, align := none } := by
  obtain ⟨hdisp, hcrc, hheld, hfill, hcell, hdeadline⟩ := h
  simp only [Receiver.hunting, Receiver.emptied, ← hdisp, ← hcrc, ← hheld, ← hfill, ← hcell, ← hdeadline]

/-- Outside a block a loss of synchronism gives nothing back. -/
theorem State.loseSync_of_outside (s : State) (x : Line) (h : (s.rx.get x).outside) :
    s.loseSync x =
      ((s.modRx x fun r => { r with state := .hunt, ins := false, align := none }).countRx x fun c =>
        { c with syncLosses := satAdd c.syncLosses 1 }).raise (.syncLost x) := by
  have ⟨_, _, _, hfill, _, _⟩ := h
  have hhunt : s.modRx x Receiver.hunting = s.modRx x fun r => { r with state := .hunt, ins := false, align := none } :=
    s.modRx_congr x (Receiver.hunting_of_outside h)
  rw [State.loseSync, State.toHunt_eq, s.returnBlock_of_no_descriptor x hfill, hhunt]

/-- The comparison on entry to HUNT after a loss of synchronism outside a block. -/
theorem State.loseSync_compare_of_outside (s : State) (x : Line) (o : Byte) (h : (s.rx.get x).outside)
    (hh : (s.rx.get x).history = octetBits o) :
    (s.loseSync x).huntCompare x =
      { s with
        rx := s.rx.set x
          { s.rx.get x with
            state := if o = (s.config.get x).syn1 then .confirm else .hunt
            ins := false
            align := if o = (s.config.get x).syn1 then some 0 else none }
        count :=
          { s.count with
            rx := s.count.rx.set x
              { s.count.rx.get x with syncLosses := min ((s.count.rx.get x).syncLosses + 1) 4294967295 } }
        emitter := s.emitter.hear [.syncLost x] } := by
  rw [s.loseSync_of_outside x h]
  split_ifs with hsyn
  · rw [State.huntCompare_of_match _ x o ?history ?syn1]
    case history => simpa using hh
    case syn1 => exact hsyn
    simp only [State.modRx, State.countRx, State.raise, PerLine.modify_modify]
    rfl
  · rw [State.huntCompare_of_no_match _ x o ?history ?syn1]
    case history => simpa using hh
    case syn1 => exact hsyn
    rfl

/-! ### GAP and GAP-SYN (R17, R18) -/

theorem Receiver.outside_history {r : Receiver} (h : r.outside) (history : List Bool) :
    Receiver.outside { r with history } := h

/-- Settles O11: the octets that keep synchronism, and the loss with its comparison for every other. -/
theorem gapAndGapSynTakeAnOctet : Obligations.GapAndGapSynTakeAnOctet := by
  intro s x o hout losses
  have hout' : ((s.withOctet x o).rx.get x).outside := by
    rw [s.withOctet_rx_get]
    exact Receiver.outside_history hout _
  have hloss := (s.withOctet x o).loseSync_compare_of_outside x o hout' (by simp)
  have hset (r : Receiver) : (s.withOctet x o).rx.set x r = s.rx.set x r := by
    simp [State.withOctet, PerLine.modify_eq_set]
  refine ⟨fun hears hsyn => ?syn, fun hears hsyn hblk => ?lost, fun hears hsyn => ?back, fun hears hsyn => ?synLost⟩
  case syn =>
    rw [exec_octetInGap_of_hears s x o hears, State.takeGap, if_pos (by exact hsyn), s.withOctet_modRx]
    rfl
  case lost =>
    rw [exec_octetInGap_of_hears s x o hears, State.takeGap, if_neg (by exact hsyn), if_neg hblk, hloss, hset]
    have hother : ¬o = ((s.withOctet x o).config.get x).syn1 := hsyn
    simp only [if_neg hother, State.withOctet_rx_get]
    rfl
  case back =>
    rw [exec_octetInGapSyn_of_hears s x o hears, State.takeGapSyn, if_pos (by exact hsyn), s.withOctet_modRx]
    rfl
  case synLost =>
    rw [exec_octetInGapSyn_of_hears s x o hears, State.takeGapSyn, if_neg (by exact hsyn), hloss, hset]
    simp only [State.withOctet_config, State.withOctet_rx_get]
    rfl

/-! ### The expiry of a deadline (R30, R31, R33) -/

theorem State.changesOnly_loseSync (s : State) (x : Line) :
    s.changesOnly (s.loseSync x) [.rx x, .rxCount x, .pools, .descs, .slots, .emitter] :=
  State.changesOnly_mono
    (State.changesOnly_trans (State.changesOnly_trans (s.changesOnly_toHunt x) (State.changesOnly_countRx _ x _))
      (State.changesOnly_raise _ _)) (by simp)

/-- What a loss of synchronism leaves of the receiver, its counters and what its block held (R19, R34). -/
theorem State.loseSync_parts (s : State) (x : Line) :
    (s.loseSync x).rx.get x = (s.rx.get x).hunting ∧
      (s.loseSync x).count.rx.get x =
        { s.count.rx.get x with syncLosses := min ((s.count.rx.get x).syncLosses + 1) 4294967295 } ∧
      s.givesBack (s.loseSync x) x [.syncLost x] := by
  refine ⟨by simp [State.loseSync, State.toHunt_eq], by simp [State.loseSync, satAdd], ?_⟩
  exact State.givesBack_hear [.syncLost x] (s.givesBack_returnBlock x) (by simp [State.loseSync, State.toHunt_eq])
    (by simp [State.loseSync, State.toHunt_eq]) (by simp [State.loseSync, State.toHunt_eq])

/-- The tick at a countdown at its last millisecond is the expiry of R31. -/
theorem State.expires_reach (s : State) (x : Line) (n : Nat) (h : (s.rx.get x).deadline = .running n) (hn : n ≤ 1) :
    s.expires (s.reach (.deadline x)) x := by
  rw [s.reach_deadline_expiring x n h hn]
  generalize hu : State.countRx { s with owed := s.owed.erase (.deadline x) } x (fun c =>
    { c with deadlineAbandons := satAdd c.deadlineAbandons 1 }) = u
  obtain ⟨hrx, hcount, hback⟩ := u.loseSync_parts x
  refine ⟨?owed, ?rx, ?count, ?back, ?frame⟩
  case owed => simp [← hu]
  case rx =>
    rw [hrx, ← hu]
    rfl
  case count =>
    rw [hcount, ← hu]
    simp [satAdd]
  case back =>
    subst hu
    exact hback
  case frame =>
    have hchange := State.changesOnly_trans (State.changesOnly_trans (s.changesOnly_owed (s.owed.erase (.deadline x)))
      (State.changesOnly_countRx _ x fun c => { c with deadlineAbandons := satAdd c.deadlineAbandons 1 }))
      (State.changesOnly_loseSync _ x)
    rw [hu] at hchange
    exact State.changesOnly_mono hchange (by simp)

theorem State.deadlineEnds_iff (s : State) (x : Line) :
    s.deadlineEnds x = true ↔ (s.rx.get x).deadline = .running 0 ∨
      ((s.rx.get x).deadline = .running 1 ∧ TickTaker.deadline x ∈ s.owed) := by
  simp [State.deadlineEnds]

/-- Settles O12: the command reaches the receiver where its countdown ends, and does nothing elsewhere. -/
theorem deadlineExpiryEndsTheBlock : Obligations.DeadlineExpiryEndsTheBlock := by
  intro s x hquiet due
  have harm : exec (.deadlineExpiry x) s =
    .next (s.running fun s => if s.deadlineEnds x then s.reach (.deadline x) else s) := rfl
  rw [harm, s.running_of_quiet _ hquiet]
  have hdue : s.deadlineEnds x = true ↔ due := s.deadlineEnds_iff x
  refine ⟨fun hends => ?expires, fun hnot => ?nothing⟩
  case expires =>
    refine ⟨_, by rw [if_pos (hdue.2 hends)], ?_⟩
    rcases hends with h0 | ⟨h1, -⟩
    · exact s.expires_reach x 0 h0 (by decide)
    · exact s.expires_reach x 1 h1 (by decide)
  case nothing => rw [if_neg (hdue.not.2 hnot)]

/-! ### The beginning of a block (R20) -/

/-- Settles O13: the head general descriptor is claimed, or the block is SINK. -/
theorem blkBeginsABlock : Obligations.BlkBeginsABlock := by
  intro s x hears hsyn limit begun
  have hblk : (s.withOctet x 0x5A).takeGap x 0x5A = (s.withOctet x 0x5A).beginBlock x := by
    rw [State.takeGap, if_neg (by exact Ne.symm hsyn), if_pos rfl]
  rw [exec_octetInGap_of_hears s x 0x5A hears, hblk]
  refine ⟨fun d rest hfree => ?stored, fun hfree => ?sunk⟩
  case stored =>
    rw [(s.withOctet x 0x5A).beginBlock_of_cons x d rest hfree]
    have hclaim : s.buf.claimDesc x =
        { s.buf with
          freeDescs := rest
          hwDescs := max s.buf.hwDescs (126 - rest.length)
          descs := s.buf.descs.modify d fun v =>
            { v with state := .filling, ingress := some x, origin := .received, mark := false } } := by
      rw [Buffer.claimDesc, hfree]
      rfl
    refine ⟨_, rfl, ?_, fun hlen hchain htickets hbound => ?_⟩
    · rw [State.withOctet_modRx, ← hclaim]
      rfl
    · have hdesc : (s.buf.claimDesc x).desc d =
          { s.buf.desc d with state := .filling, ingress := some x, origin := .received, mark := false } := by
        rw [hclaim]
        exact Buffer.desc_modDesc_same s.buf d _ hlen
      rw [← hchain, ← htickets, ← hbound]
      exact hdesc
  case sunk =>
    rw [(s.withOctet x 0x5A).beginBlock_of_nil x hfree, State.withOctet_modRx]
    rfl

end Sys2Proof.Machine

/-! PROOF. The octets of a block (chapter 2): what a header or text octet stores, the SINK block, the failed claim of a cell,
the header fault, and the check octets of a block that is not dispatched. -/

namespace Sys2Proof.Machine

/-! ### Cell contents -/

/-- A write leaves every other octet, whatever the form of the contents. -/
theorem Memory.read_insert_other (m : Memory) {a a' : Nat} (v : Byte) (h : a' ≠ a) :
    Memory.read (Memory.insert m a v) a' = Memory.read m a' := by
  induction m with
  | nil =>
    unfold Memory.insert
    split_ifs
    · rfl
    · simp [Memory.read, h]
  | cons y m ih =>
    obtain ⟨b, w⟩ := y
    unfold Memory.insert
    split_ifs with _ _ hab
    · rfl
    · simp [Memory.read, h]
    · simp [Memory.read, ← hab, h]
    · simp [Memory.read, ← hab, h]
    · simp [Memory.read, ih]

theorem Memory.read_write_other (m : Memory) {a a' : Nat} (v : Byte) (h : a' ≠ a) :
    Memory.read (Memory.write m a v) a' = Memory.read m a' := by
  unfold Memory.write
  split_ifs
  · exact Memory.read_insert_other m v h
  · rfl

/-- The octet written at place `k` of cell `c` is read there, and no other octet changes. -/
theorem Memory.read_write_cell (m : Memory) (c k a : Nat) (v : Byte) (hc : c < 512) (hk : k < 64) (h : m.wf = true) :
    Memory.read (m.write (cellAddress c k) v) a = if a = 64 * c + k then v else Memory.read m a := by
  have hin : cellAddress c k < Config.bufferSize := by
    show 64 * c + k < 32768
    omega
  rw [Memory.read_write m _ v a h]
  simp only [hin, and_true]
  rfl

/-! ### Where an octet is stored (R21, R22) -/

theorem State.storeOctet_of_no_descriptor (s : State) (x : Line) (o : Byte) (h : (s.rx.get x).filling = none) :
    s.storeOctet x o = s := by
  simp [State.storeOctet, h]

theorem State.storeOctet_of_room (s : State) (x : Line) (o : Byte) (d c k : Nat) (hfill : (s.rx.get x).filling = some d)
    (hcell : (s.rx.get x).cell = some ⟨c, k⟩) (hk : k < 64) : s.storeOctet x o = s.writeCurrent x ⟨c, k⟩ o := by
  simp [State.storeOctet, hfill, hcell, hk]

theorem State.storeOctet_of_full (s : State) (x : Line) (o : Byte) (d : Nat) (hfill : (s.rx.get x).filling = some d)
    (hcell : ∀ v, (s.rx.get x).cell = some v → 64 ≤ v.fill) : s.storeOctet x o = s.storeInNew x d o := by
  unfold State.storeOctet
  rw [hfill]
  cases hc : (s.rx.get x).cell with
  | none => rfl
  | some v => exact if_neg (Nat.not_lt.2 (hcell v hc))

theorem State.storeInNew_of_none (s : State) (x : Line) (d : Nat) (o : Byte) (h : s.buf.freeCells = []) :
    s.storeInNew x d o =
      (s.sinkBlock x).countRx x fun c => { c with bufferExhausted := satAdd c.bufferExhausted 1 } := by
  unfold State.storeInNew
  rw [h]

/-- The claim of the head general cell (R37, R52, R54). -/
theorem Buffer.claimCell_of_cons (b : Buffer) (c : Nat) (rest : List Nat) (h : b.freeCells = c :: rest) :
    b.claimCell =
      ({ b with
          freeCells := rest
          hwCells := max b.hwCells (494 - rest.length)
          lowArmed := if rest.length = 47 then false else b.lowArmed },
        if b.lowArmed = true ∧ rest.length = 47 then [.bufferLow] else []) := by
  have hlow : (48 ≤ rest.length + 1 ∧ rest.length < 48) ↔ rest.length = 47 := by omega
  have hhigh : ¬(rest.length + 1 ≤ 96 ∧ 96 < rest.length) := by omega
  simp only [Buffer.claimCell, h, List.tail_cons, Buffer.threshold, Buffer.cellsInUse, List.length_cons, Config.lowLevel,
    Config.highLevel, Config.generalCells, hlow, hhigh, and_false, if_false]
  by_cases hcount : rest.length = 47
  · cases harmed : b.lowArmed <;> simp [hcount]
  · simp [hcount]

/-- An octet stored in a new cell. -/
theorem State.storeInNew_of_cons (s : State) (x : Line) (d : Nat) (o : Byte) (c : Nat) (rest : List Nat)
    (h : s.buf.freeCells = c :: rest) :
    s.storeInNew x d o =
      ({ s with
          buf := (s.buf.claimCell.1).appendCell d c
          emitter := s.emitter.hear s.buf.claimCell.2 }).writeCurrent x ⟨c, 0⟩ o := by
  unfold State.storeInNew
  rw [h]
  rfl

/-- The storing of an octet does not look at what a receiver holds besides its descriptor and cell. -/
theorem State.storeOctet_modRx (s : State) (x : Line) (o : Byte) (f : Receiver → Receiver)
    (hfill : ∀ r, (f r).filling = r.filling) (hcell : ∀ r, (f r).cell = r.cell)
    (hset : ∀ r c, f { r with cell := c } = { f r with cell := c }) (hsink : ∀ r, f r.toSink = (f r).toSink) :
    (s.modRx x f).storeOctet x o = (s.storeOctet x o).modRx x f := by
  have hwrite (s : State) (v : CellFill) : (s.modRx x f).writeCurrent x v o = (s.writeCurrent x v o).modRx x f := by
    have hcomm : (fun r => ({ f r with cell := some ⟨v.cell, v.fill + 1⟩ } : Receiver)) =
        fun r => f { r with cell := some ⟨v.cell, v.fill + 1⟩ } := funext fun r => (hset r _).symm
    rw [State.writeCurrent, State.writeCurrent, State.modRx_modRx, ← hcomm]
    exact State.modRx_modRx { s with buf := { s.buf with mem := s.buf.mem.write (cellAddress v.cell v.fill) o } } x f _
  have hnew (d : Nat) : (s.modRx x f).storeInNew x d o = (s.storeInNew x d o).modRx x f := by
    cases hfree : s.buf.freeCells with
    | nil =>
      rw [(s.modRx x f).storeInNew_of_none x d o hfree, s.storeInNew_of_none x d o hfree, State.sinkBlock,
        s.returnBlock_modRx x f (hfill _), State.sinkBlock]
      simp only [State.countRx, State.modRx, PerLine.modify_modify, hsink]
    | cons c rest =>
      rw [(s.modRx x f).storeInNew_of_cons x d o c rest hfree, s.storeInNew_of_cons x d o c rest hfree]
      exact hwrite { s with buf := s.buf.claimCell.1.appendCell d c, emitter := s.emitter.hear s.buf.claimCell.2 } ⟨c, 0⟩
  unfold State.storeOctet
  rw [State.modRx_rx, PerLine.get_modify_same, hfill, hcell]
  split
  · rfl
  · split_ifs
    · exact hwrite s _
    · exact hnew _
  · exact hnew _

/-! ### Header octets 1 to 5 and text octets (R21, R27) -/

theorem State.takeOctet_of_body (s : State) (x : Line) (o : Byte) (h : (s.rx.get x).state = .body) :
    s.takeOctet x o = s.takeText x o := by
  simp [State.takeOctet, h]

theorem State.takeOctet_of_header (s : State) (x : Line) (o : Byte) (h : (s.rx.get x).state = .header)
    (hpos : (s.rx.get x).position < 5) : s.takeOctet x o = s.placeHeader x o := by
  simp [State.takeOctet, h, hpos]

/-- A header octet placed in the header register and fed to the check, storage aside. -/
def Receiver.placed (r : Receiver) (o : Byte) : Receiver :=
  { r with
    history := octetBits o
    crc := r.crc.map fun k => crcOctet k o
    header := r.header ++ [o]
    position := r.position + 1 }

theorem State.placeHeader_withOctet (s : State) (x : Line) (o : Byte) :
    (s.withOctet x o).placeHeader x o = (s.modRx x fun r => r.placed o).storeOctet x o := by
  rw [State.placeHeader, State.withOctet, State.modRx_modRx]
  rfl

theorem Receiver.took_of_header (r : Receiver) (o : Byte) (h : r.state = .header) : r.took o = r.placed o := by
  obtain ⟨state, history, align, header, position, disposition, crc, heldCheck, filling, cell, deadline, ins⟩ := r
  obtain rfl : state = .header := h
  simp [Receiver.took, Receiver.placed]

/-- A text octet that is not the last one of its block. -/
theorem Receiver.took_of_inside (r : Receiver) (o : Byte) (h : r.state = .body) (hlen : r.position + 1 ≠ r.len) :
    r.took o = { r.feed o with history := octetBits o, position := r.position + 1 } := by
  obtain ⟨state, history, align, header, position, disposition, crc, heldCheck, filling, cell, deadline, ins⟩ := r
  obtain rfl : state = .body := h
  have hlast : ¬position + 1 = wordOf (header.getD 4 0) (header.getD 5 0) := hlen
  simp only [Receiver.took, Receiver.feed, hlast, and_false, decide_false, if_neg, Bool.false_eq_true, reduceCtorEq,
    not_false_eq_true]

/-- The last text octet of a block leads to CHECK. -/
theorem Receiver.took_of_last (r : Receiver) (o : Byte) (h : r.state = .body) (hlen : r.position + 1 = r.len) :
    r.took o = { (r.feed o).enter .check with history := octetBits o, position := 0 } := by
  obtain ⟨state, history, align, header, position, disposition, crc, heldCheck, filling, cell, deadline, ins⟩ := r
  obtain rfl : state = .body := h
  have hlast : position + 1 = wordOf (header.getD 4 0) (header.getD 5 0) := hlen
  simp only [Receiver.took, Receiver.feed, Receiver.enter, RxState.inSync, hlast, and_self, decide_true, if_true, if_neg,
    reduceCtorEq, not_false_eq_true]

theorem State.takeText_withOctet (s : State) (x : Line) (o : Byte) (h : (s.rx.get x).state = .body) :
    (s.withOctet x o).takeText x o = (s.modRx x fun r => r.took o).storeOctet x o := by
  have hfed : (s.withOctet x o).modRx x (fun r => { r.feed o with position := r.position + 1 }) =
      s.modRx x fun r => { r.feed o with history := octetBits o, position := r.position + 1 } := by
    rw [State.withOctet, State.modRx_modRx]
    rfl
  obtain ⟨-, hheader, hposition⟩ :=
    (s.modRx x fun r => { r.feed o with history := octetBits o, position := r.position + 1 }).storeOctet_rx x o
  simp only [State.takeText, hfed, Receiver.len, hheader, hposition, State.modRx_rx, PerLine.get_modify_same]
  by_cases hlast : (s.rx.get x).position + 1 = (s.rx.get x).len
  · rw [if_pos (by exact hlast), ← State.storeOctet_modRx _ x o (fun r => { r.enter .check with position := 0 }) (fun _ => rfl)
      (fun _ => rfl) (fun _ _ => rfl) (fun _ => rfl), State.modRx_modRx]
    exact congrArg (State.storeOctet · x o) (s.modRx_congr x ((s.rx.get x).took_of_last o h hlast).symm)
  · rw [if_neg (by exact hlast)]
    exact congrArg (State.storeOctet · x o) (s.modRx_congr x ((s.rx.get x).took_of_inside o h hlast).symm)

/-- A header octet 1 to 5 or a text octet: the receiver takes it, and it is stored where the block is. -/
theorem exec_of_fills (s : State) (i : Instr) (x : Line) (o : Byte) (h : s.fills i x o) :
    exec i s = .next ((s.modRx x fun r => r.took o).storeOctet x o) := by
  rcases h with ⟨rfl, hears, hpos⟩ | ⟨rfl, hears⟩ <;> have ⟨_, hst, _⟩ := hears
  · have harm : exec (.headerOctet x o) s = .next (s.running fun s => s.receiveOctet x o) := rfl
    have htook : s.modRx x (fun r => r.took o) = s.modRx x fun r => r.placed o :=
      s.modRx_congr x ((s.rx.get x).took_of_header o hst)
    rw [harm, s.octet_taken x o .header hears, State.takeOctet_of_header _ x o (by simpa using hst) (by simpa using hpos),
      State.placeHeader_withOctet, htook]
  · have harm : exec (.textOctet x o) s = .next (s.running fun s => s.receiveOctet x o) := rfl
    rw [harm, s.octet_taken x o .body hears, State.takeOctet_of_body _ x o (by simpa using hst),
      s.takeText_withOctet x o hst]

@[simp] theorem Receiver.took_kept (r : Receiver) (o : Byte) :
    (r.took o).filling = r.filling ∧ (r.took o).cell = r.cell ∧ (r.took o).disposition = r.disposition :=
  ⟨rfl, rfl, rfl⟩

theorem State.changesOnly_writeCurrent (s : State) (x : Line) (v : CellFill) (o : Byte) :
    s.changesOnly (s.writeCurrent x v o) [.rx x, .cells] := by
  intro p hp
  cases p
  case rx y => exact PerLine.get_modify_other _ _ (by simpa using hp)
  case cells => simp at hp
  all_goals simp [Part.same, State.writeCurrent]

/-- Settles O15: the octet goes to the cell held, at its fill level. -/
theorem octetIsStoredInTheCurrentCell : Obligations.OctetIsStoredInTheCurrentCell := by
  intro s i x o d c k hfills hfill hcell hk hc hwf
  have hstore : (s.modRx x fun r => r.took o).storeOctet x o = (s.modRx x fun r => r.took o).writeCurrent x ⟨c, k⟩ o :=
    State.storeOctet_of_room _ x o d c k (by simpa using hfill) (by simpa using hcell) hk
  refine ⟨_, by rw [exec_of_fills s i x o hfills, hstore], by simp [State.writeCurrent], fun a => ?read, ?frame⟩
  case read => exact Memory.read_write_cell s.buf.mem c k a o hc hk hwf
  case frame =>
    exact State.changesOnly_mono
      (State.changesOnly_trans (s.changesOnly_modRx x _) (State.changesOnly_writeCurrent _ x _ o)) (by simp)

/-- Settles O16: the head general cell is claimed, and the octet is its first. -/
theorem octetClaimsANewCell : Obligations.OctetClaimsANewCell := by
  intro s i x o d c rest hfills hfill _ hcell hfree hc hwf
  have hstore : (s.modRx x fun r => r.took o).storeOctet x o = (s.modRx x fun r => r.took o).storeInNew x d o :=
    State.storeOctet_of_full _ x o d (by simpa using hfill) (by simpa using hcell)
  have hclaim := s.buf.claimCell_of_cons c rest hfree
  refine ⟨_, by rw [exec_of_fills s i x o hfills, hstore,
    (s.modRx x fun r => r.took o).storeInNew_of_cons x d o c rest hfree], ?rx, fun a => ?read, ?buffer, ?emitter, ?frame⟩
  case rx => simp [State.writeCurrent]
  case read =>
    have hmem : s.buf.claimCell.1.mem = s.buf.mem := by rw [hclaim]
    have hread := Memory.read_write_cell s.buf.mem c 0 a o hc (by decide) hwf
    rw [← hmem] at hread ⊢
    exact hread
  case buffer =>
    simp only [State.writeCurrent, State.modRx_kept, hclaim]
    rfl
  case emitter =>
    simp only [State.writeCurrent, State.modRx_kept, hclaim]
    split_ifs
    · rfl
    · exact Emitter.hear_nil _
  case frame =>
    have hclaimed : (s.modRx x fun r => r.took o).changesOnly
        { (s.modRx x fun r => r.took o) with
          buf := (s.buf.claimCell.1).appendCell d c
          emitter := s.emitter.hear s.buf.claimCell.2 } [.pools, .descs, .emitter] := by
      intro p hp
      cases p
      case pools | descs | emitter => simp at hp
      all_goals simp [Part.same, hclaim, Buffer.appendCell]
    exact State.changesOnly_mono
      (State.changesOnly_trans (State.changesOnly_trans (s.changesOnly_modRx x _) hclaimed)
        (State.changesOnly_writeCurrent _ x _ o)) (by simp)

/-- A block turned to SINK gives back what it holds; the receiver's other items are as they were (R22, R34). -/
theorem State.sinkBlock_modRx (s : State) (x : Line) (f : Receiver → Receiver)
    (h : (f (s.rx.get x)).filling = (s.rx.get x).filling) :
    (s.modRx x f).sinkBlock x = (s.returnBlock x).modRx x fun r => (f r).toSink := by
  rw [State.sinkBlock, s.returnBlock_modRx x f h, State.modRx_modRx]

/-- Settles O17: the block goes back as `State.returnBlock` gives it, and the receiver follows on as SINK. -/
theorem failedCellClaimTurnsToSink : Obligations.FailedCellClaimTurnsToSink := by
  intro s i x o d hfills ⟨hfill, _, _⟩ hcell hfree
  have hstore : (s.modRx x fun r => r.took o).storeOctet x o = (s.modRx x fun r => r.took o).storeInNew x d o :=
    State.storeOctet_of_full _ x o d (by simpa using hfill) (by simpa using hcell)
  have hsink := s.sinkBlock_modRx x (fun r => r.took o) rfl
  refine ⟨_, by rw [exec_of_fills s i x o hfills, hstore, (s.modRx x fun r => r.took o).storeInNew_of_none x d o hfree,
    hsink], ?rx, ?back, ?count, ?frame⟩
  case rx => simp [Receiver.toSink]
  case back => exact State.givesBack_hear [] (s.givesBack_returnBlock x) rfl rfl (by simp)
  case count => simp [satAdd]
  case frame =>
    exact State.changesOnly_mono
      (State.changesOnly_trans
        (State.changesOnly_trans (s.changesOnly_returnBlock x) (State.changesOnly_modRx _ x _))
        (State.changesOnly_countRx _ x _)) (by simp)

end Sys2Proof.Machine

/-! PROOF. The end of a header and the check octets (chapter 2): a block that holds no descriptor, the header fault, the
check that is not good, and the running check itself (R4). -/

namespace Sys2Proof.Machine

/-! ### The sixth header octet (R24 to R26) -/

theorem exec_headerCompletion_of_hears (s : State) (x : Line) (o : Byte) (h : s.hears x .header)
    (hpos : (s.rx.get x).position = 5) :
    exec (.headerCompletion x o) s = .next ((s.withOctet x o).completeHeader x o) := by
  have ⟨_, hst, _⟩ := h
  have harm : exec (.headerCompletion x o) s = .next (s.running fun s => s.receiveOctet x o) := rfl
  have htake : (s.withOctet x o).takeOctet x o = (s.withOctet x o).completeHeader x o := by
    simp [State.takeOctet, hst, hpos]
  rw [harm, s.octet_taken x o .header h, htake]

/-- LEN once the sixth header octet is placed. -/
theorem Receiver.placed_len (r : Receiver) (o : Byte) (h : r.header.length = 5) :
    (r.placed o).len = wordOf (r.header.getD 4 0) o := by
  obtain ⟨dst, src, kind, seq, hi, hheader⟩ : ∃ dst src kind seq hi, r.header = [dst, src, kind, seq, hi] := by
    match r.header, h with
    | [dst, src, kind, seq, hi], _ => exact ⟨dst, src, kind, seq, hi, rfl⟩
  simp [Receiver.len, Receiver.placed, hheader]

/-- The header register and LEN after the sixth octet is placed and perhaps stored. -/
theorem State.placedHeader_len (s : State) (x : Line) (o : Byte) (h : (s.rx.get x).header.length = 5) :
    (((s.modRx x fun r => r.placed o).storeOctet x o).rx.get x).len = wordOf ((s.rx.get x).header.getD 4 0) o := by
  obtain ⟨-, hheader, -⟩ := (s.modRx x fun r => r.placed o).storeOctet_rx x o
  rw [Receiver.len, hheader, State.modRx_rx, PerLine.get_modify_same]
  exact (s.rx.get x).placed_len o h

/-- A header whose LEN exceeds 1020 (R25). -/
theorem State.completeHeader_of_fault (s : State) (x : Line) (o : Byte) (h : (s.rx.get x).header.length = 5)
    (hlen : 1020 < wordOf ((s.rx.get x).header.getD 4 0) o) :
    (s.withOctet x o).completeHeader x o =
      (((((s.modRx x fun r => r.placed o).storeOctet x o).countRx x fun c =>
        { c with headerFaults := satAdd c.headerFaults 1 }).loseSync x).huntCompare x) := by
  simp only [State.completeHeader, State.placeHeader_withOctet, s.placedHeader_len x o h]
  exact if_pos hlen

/-- The receiver leaves HEADER for BODY, or for CHECK where LEN is 0 (R26). -/
def Receiver.leaveHeader (len : Nat) (r : Receiver) : Receiver :=
  { r.enter (if len = 0 then .check else .body) with position := 0 }

/-- A well-formed header of a block that holds no descriptor (R26). -/
theorem State.completeHeader_of_no_descriptor (s : State) (x : Line) (o : Byte) (h : (s.rx.get x).header.length = 5)
    (hlen : wordOf ((s.rx.get x).header.getD 4 0) o ≤ 1020)
    (hfill : (((s.modRx x fun r => r.placed o).storeOctet x o).rx.get x).filling = none) :
    (s.withOctet x o).completeHeader x o =
      ((s.modRx x fun r => r.placed o).storeOctet x o).modRx x
        (Receiver.leaveHeader (wordOf ((s.rx.get x).header.getD 4 0) o)) := by
  simp only [State.completeHeader, State.placeHeader_withOctet, s.placedHeader_len x o h, hfill]
  exact if_neg (Nat.not_lt.2 hlen)

/-- A well-formed header of a stored block (R26). -/
theorem State.completeHeader_of_stored (s : State) (x : Line) (o : Byte) (d : Nat) (h : (s.rx.get x).header.length = 5)
    (hlen : wordOf ((s.rx.get x).header.getD 4 0) o ≤ 1020)
    (hfill : (((s.modRx x fun r => r.placed o).storeOctet x o).rx.get x).filling = some d) :
    (s.withOctet x o).completeHeader x o =
      ((((s.modRx x fun r => r.placed o).storeOctet x o).modDesc d fun v =>
          v.withHeader (((s.modRx x fun r => r.placed o).storeOctet x o).rx.get x).header
            (wordOf ((s.rx.get x).header.getD 4 0) o)).decideBlock x d).modRx x
        (Receiver.leaveHeader (wordOf ((s.rx.get x).header.getD 4 0) o)) := by
  simp only [State.completeHeader, State.placeHeader_withOctet, s.placedHeader_len x o h, hfill]
  exact if_neg (Nat.not_lt.2 hlen)

/-- The receiver enters BODY, or CHECK where the text is empty, once the header is complete. -/
theorem Receiver.headed_eq (r : Receiver) (o : Byte) :
    r.headed o = (r.placed o).leaveHeader (wordOf (r.header.getD 4 0) o) := by
  by_cases hzero : wordOf (r.header.getD 4 0) o = 0 <;>
    simp only [Receiver.headed, Receiver.leaveHeader, Receiver.placed, Receiver.enter, RxState.inSync, hzero, if_true,
      if_false]

/-! ### The running check (R4) -/

/-- Both the register and the word it is compared with move up by one bit: the difference is kept. -/
theorem crcBit_eq_shift_iff (k w : Word16) : crcBit k (w.getLsbD 15) = w <<< 1 ↔ k = w := by
  constructor
  · intro h
    by_cases htop : k.getLsbD 15 = w.getLsbD 15
    · rw [crcBit, htop, Bool.xor_self, if_neg (by decide)] at h
      refine BitVec.eq_of_getLsbD_eq fun i hi => ?_
      by_cases hlast : i = 15
      · rw [hlast, htop]
      · have hbit := congrArg (·.getLsbD (i + 1)) h
        simpa [BitVec.getLsbD_eq_getElem, hi, show i + 1 < 16 by omega] using hbit
    · have hxor : (k.getLsbD 15).xor (w.getLsbD 15) = true := by
        revert htop
        cases k.getLsbD 15 <;> cases w.getLsbD 15 <;> simp
      rw [crcBit, if_pos hxor] at h
      have hbit := congrArg (·.getLsbD 0) h
      simp at hbit
  · rintro rfl
    rw [crcBit, Bool.xor_self, if_neg (by decide)]

/-- The register after the bits of `w` from place `i` down leaves `w` moved up exactly where it began with it. -/
theorem crcBits_eq_iff (w : Word16) (n : Nat) (k : Word16) (hn : n ≤ 16) :
    ((List.range n).foldl (fun k i => crcBit k (w.getLsbD (15 - i))) k) = w <<< n ↔ k = w := by
  induction n with
  | zero => simp
  | succ n ih =>
    have hbit : w.getLsbD (15 - n) = (w <<< n).getLsbD 15 := by
      rw [BitVec.getLsbD_shiftLeft, decide_eq_true (by decide), decide_eq_false (by omega)]
      rfl
    have hshift : w <<< (n + 1) = (w <<< n) <<< 1 := by rw [BitVec.shiftLeft_add]
    rw [List.range_succ, List.foldl_append, List.foldl_cons, List.foldl_nil, hbit, hshift, crcBit_eq_shift_iff, ih (by omega)]

theorem octetBits_reverse (o : Byte) : (octetBits o).reverse = (List.range 8).map fun n => o.getLsbD (7 - n) :=
  rfl

theorem crcOctet_eq (k : Word16) (o : Byte) :
    crcOctet k o =
      (List.range 8).foldl
        (fun (k : Word16) (n : Nat) => if k.getLsbD 15 = o.getLsbD (7 - n) then k <<< 1 else (k <<< 1) ^^^ 0x1021) k := by
  have hbit (k : Word16) (b : Bool) :
      crcBit k b = if k.getLsbD 15 = b then k <<< 1 else (k <<< 1) ^^^ 0x1021 := by
    unfold crcBit
    cases k.getLsbD 15 <;> cases b <;> rfl
  rw [crcOctet, octetBits_reverse, List.foldl_map]
  simp only [hbit]

/-- Two octets entered one after another are the sixteen bits of the word they make. -/
theorem crcOctet_crcOctet (k : Word16) (c1 c2 : Byte) :
    crcOctet (crcOctet k c1) c2 =
      (List.range 16).foldl (fun k i => crcBit k ((c1 ++ c2 : BitVec 16).getLsbD (15 - i))) k := by
  have hhigh : (List.range 8).map (fun n => c1.getLsbD (7 - n)) =
      (List.range 8).map fun i => (c1 ++ c2 : BitVec 16).getLsbD (15 - i) := by
    refine List.map_congr_left fun i hi => ?_
    have := List.mem_range.1 hi
    rw [BitVec.getLsbD_append, if_neg (by omega)]
    congr 1
    omega
  have hlow : (List.range 8).map (fun n => c2.getLsbD (7 - n)) =
      (List.range 8).map fun i => (c1 ++ c2 : BitVec 16).getLsbD (15 - (8 + i)) := by
    refine List.map_congr_left fun i hi => ?_
    have := List.mem_range.1 hi
    rw [BitVec.getLsbD_append, if_pos (by omega)]
    congr 1
    omega
  have hsplit : List.range 16 = List.range 8 ++ (List.range 8).map (8 + ·) := rfl
  rw [crcOctet, crcOctet, octetBits_reverse, octetBits_reverse, hhigh, hlow, hsplit, List.foldl_append]
  simp only [List.foldl_map]

/-- Continued over two octets the check leaves 0 exactly when they are the check, high octet first. -/
theorem crcOctet_crcOctet_eq_zero_iff (k : Word16) (c1 c2 : Byte) :
    crcOctet (crcOctet k c1) c2 = 0 ↔ k.toNat = 256 * c1.toNat + c2.toNat := by
  have hword : (c1 ++ c2 : BitVec 16).toNat = 256 * c1.toNat + c2.toNat := by
    rw [BitVec.toNat_append, ← Nat.shiftLeft_add_eq_or_of_lt c2.isLt, Nat.shiftLeft_eq, Nat.mul_comm]
  have hout : (0 : Word16) = (c1 ++ c2 : BitVec 16) <<< 16 := by
    rw [BitVec.shiftLeft_eq_zero (by decide)]
    rfl
  rw [crcOctet_crcOctet, hout, crcBits_eq_iff _ 16 k (Nat.le_refl _), ← hword]
  exact ⟨fun h => by rw [h], BitVec.eq_of_toNat_eq⟩

/-- Settles O14: nothing is stored of a block that holds no descriptor; and the check is R4's, bit by bit. -/
theorem sinkBlockIsFollowed : Obligations.SinkBlockIsFollowed := by
  refine ⟨fun s x o hfill => ⟨fun i hfills => ?fed, fun hears hpos hheader hlen => ?headed⟩, crcOctet_eq, rfl,
    fun os o => ?append, fun os c1 c2 => ?zero⟩
  case fed =>
    rw [exec_of_fills s i x o hfills, State.storeOctet_of_no_descriptor _ x o (by simpa using hfill)]
    rfl
  case headed =>
    have hstored : (s.modRx x fun r => r.placed o).storeOctet x o = s.modRx x fun r => r.placed o :=
      State.storeOctet_of_no_descriptor _ x o (by simpa [Receiver.placed] using hfill)
    have hnone : (((s.modRx x fun r => r.placed o).storeOctet x o).rx.get x).filling = none := by
      rw [hstored]
      simpa [Receiver.placed] using hfill
    rw [exec_headerCompletion_of_hears s x o hears hpos, s.completeHeader_of_no_descriptor x o hheader hlen hnone, hstored]
    simp only [State.modRx_modRx, Receiver.headed_eq]
    rfl
  case append => rw [crcOf, crcOf, List.foldl_append, List.foldl_cons, List.foldl_nil]
  case zero =>
    have happend : crcOf (os ++ [c1, c2]) = crcOctet (crcOctet (crcOf os) c1) c2 := by
      rw [crcOf, List.foldl_append]
      rfl
    rw [happend, crcOctet_crcOctet_eq_zero_iff]

/-! ### The header fault (R25) -/

/-- The comparison on entry to HUNT, over the octet that the history holds. -/
theorem State.huntCompare_of_octet (s : State) (x : Line) (o syn1 : Byte) (h : (s.rx.get x).history = octetBits o)
    (hsyn1 : (s.config.get x).syn1 = syn1) :
    s.huntCompare x =
      s.modRx x fun r => if o = syn1 then { r.enter .confirm with align := some 0 } else r := by
  subst hsyn1
  by_cases hmatch : o = (s.config.get x).syn1
  · rw [s.huntCompare_of_match x o h hmatch]
    simp only [if_pos hmatch]
  · rw [s.huntCompare_of_no_match x o h hmatch]
    simp only [if_neg hmatch, State.modRx, PerLine.modify_eq_set, PerLine.set_get]

/-- Placing the last header octet of a faulty header stores it in the cell held, or nowhere. -/
theorem State.placedHeader_fault (s : State) (x : Line) (o : Byte)
    (hroom : ∀ d, (s.rx.get x).filling = some d → ∃ c k, (s.rx.get x).cell = some ⟨c, k⟩ ∧ k < 64) :
    ∃ (mem : Memory) (cell : Option CellFill),
      (s.modRx x fun r => r.placed o).storeOctet x o =
        ({ s with buf := { s.buf with mem } }).modRx x (fun r => { r.placed o with cell }) ∧
      (∀ a, (∀ c k, (s.rx.get x).cell = some ⟨c, k⟩ → a ≠ 64 * c + k) → mem.read a = s.buf.mem.read a) ∧
      ((s.rx.get x).filling = none → mem = s.buf.mem) := by
  cases hfill : (s.rx.get x).filling with
  | none =>
    refine ⟨s.buf.mem, (s.rx.get x).cell, ?_, fun _ _ => rfl, fun _ => rfl⟩
    rw [State.storeOctet_of_no_descriptor _ x o (by simpa [Receiver.placed] using hfill)]
    exact s.modRx_congr x rfl
  | some d =>
    obtain ⟨c, k, hcell, hk⟩ := hroom d hfill
    refine ⟨s.buf.mem.write (cellAddress c k) o, some ⟨c, k + 1⟩, ?_, fun a ha => ?_, fun h => by cases h⟩
    · rw [State.storeOctet_of_room _ x o d c k (by simpa [Receiver.placed] using hfill)
        (by simpa [Receiver.placed] using hcell) hk, State.writeCurrent]
      exact State.modRx_modRx { s with buf := { s.buf with mem := s.buf.mem.write (cellAddress c k) o } } x
        (fun r => r.placed o) fun r => { r with cell := some ⟨c, k + 1⟩ }
    · exact Memory.read_write_other _ o (ha c k hcell)

/-- The loss of synchronism with the comparison that follows it gives back what the block held, and the receiver is in
HUNT or, where the octet is SYN1, in CONFIRM (R19, R25). -/
theorem State.loseSync_compare_modRx (s : State) (x : Line) (f : Receiver → Receiver) (o : Byte)
    (hfill : (f (s.rx.get x)).filling = (s.rx.get x).filling) (hhistory : (f (s.rx.get x)).history = octetBits o) :
    ((s.modRx x f).loseSync x).huntCompare x =
      ((((s.returnBlock x).modRx x fun r => (f r).hunting).countRx x fun c =>
        { c with syncLosses := satAdd c.syncLosses 1 }).raise (.syncLost x)).modRx x fun r =>
          if o = (s.config.get x).syn1 then { r.enter .confirm with align := some 0 } else r := by
  have hhunt : (s.modRx x f).toHunt x = (s.returnBlock x).modRx x fun r => (f r).hunting := by
    rw [State.toHunt_eq, s.returnBlock_modRx x f hfill, State.modRx_modRx]
  rw [State.loseSync, hhunt, State.huntCompare_of_octet _ x o (s.config.get x).syn1 ?history ?config]
  case history => simpa [Receiver.hunting, Receiver.emptied] using hhistory
  case config => simp

/-- What goes back does not depend on the cell contents. -/
theorem State.givesBack_of_mem {s t : State} {mem : Memory} {x : Line} {es : List Event}
    (hsame : (s.rx.get x).filling = none → mem = s.buf.mem)
    (h : State.givesBack { s with buf := { s.buf with mem } } t x es) : s.givesBack t x es := by
  unfold State.givesBack at h ⊢
  split
  next hnone =>
    rw [hsame hnone] at h
    simpa [hnone] using h
  next d hsome =>
    simp only [hsome] at h
    exact h

theorem State.changesOnly_mem (s : State) (mem : Memory) :
    s.changesOnly { s with buf := { s.buf with mem } } [.cells] := by
  intro p hp
  cases p
  case cells => simp at hp
  all_goals simp [Part.same]

theorem State.returnBlock_mem (s : State) (x : Line) : (s.returnBlock x).buf.mem = s.buf.mem := by
  unfold State.returnBlock
  split <;> simp [State.freeDesc, State.releaseBind_buf]

/-- Settles O18: the block is abandoned by `State.loseSync`, and the comparison runs over the octet placed. -/
theorem headerFaultLosesSynchronism : Obligations.HeaderFaultLosesSynchronism := by
  intro s x o hears hpos hheader hlen hroom
  obtain ⟨mem, cell, hplaced, hread, hsame⟩ := s.placedHeader_fault x o hroom
  let u : State := State.countRx { s with buf := { s.buf with mem } } x fun c =>
    { c with headerFaults := satAdd c.headerFaults 1 }
  have hlost := u.loseSync_compare_modRx x (fun r => { r.placed o with cell }) o rfl rfl
  refine ⟨_, by rw [exec_headerCompletion_of_hears s x o hears hpos, s.completeHeader_of_fault x o hheader hlen, hplaced],
    ?_⟩
  rw [show ((State.modRx { s with buf := { s.buf with mem } } x fun r => { r.placed o with cell }).countRx x fun c =>
    { c with headerFaults := satAdd c.headerFaults 1 }) = u.modRx x fun r => { r.placed o with cell } from rfl, hlost]
  refine ⟨?rx, ?count, ?back, fun a ha => ?mem, ?frame⟩
  case rx =>
    have hsix : (s.rx.get x).position + 1 = 6 := by rw [hpos]
    simp only [State.modRx_rx, State.raise_kept, State.countRx_kept, State.returnBlock_kept, PerLine.get_modify_same, u]
    simp only [Receiver.hunting, Receiver.emptied, Receiver.placed, Receiver.enter, RxState.inSync, hsix]
    split_ifs <;> rfl
  case count => simp [u, satAdd]
  case back =>
    exact State.givesBack_of_mem hsame
      (State.givesBack_hear (t := u.returnBlock x) [.syncLost x] (u.givesBack_returnBlock x) rfl rfl rfl)
  case mem =>
    rw [← hread a ha]
    exact congrArg (Memory.read · a) (u.returnBlock_mem x)
  case frame =>
    exact State.changesOnly_mono
      (State.changesOnly_trans
        (State.changesOnly_trans
          (State.changesOnly_trans
            (State.changesOnly_trans
              (State.changesOnly_trans
                (State.changesOnly_trans (s.changesOnly_mem mem) (State.changesOnly_countRx _ x _))
                (u.changesOnly_returnBlock x))
              (State.changesOnly_modRx _ x _))
            (State.changesOnly_countRx _ x _))
          (State.changesOnly_raise _ _))
        (State.changesOnly_modRx _ x _)) (by simp)

/-! ### The check octets (R28, R29) -/

theorem exec_checkOctet_of_hears (s : State) (x : Line) (o : Byte) (h : s.hears x .check)
    (hpos : (s.rx.get x).position = 0) : exec (.checkOctet x o) s = .next ((s.withOctet x o).takeCheck x o) := by
  have ⟨_, hst, _⟩ := h
  have harm : exec (.checkOctet x o) s = .next (s.running fun s => s.receiveOctet x o) := rfl
  have htake : (s.withOctet x o).takeOctet x o = (s.withOctet x o).takeCheck x o := by
    simp [State.takeOctet, hst, hpos]
  rw [harm, s.octet_taken x o .check h, htake]

theorem exec_blockCompletion_of_endsBlock (s : State) (x : Line) (o : Byte) (good : Bool) (h : s.endsBlock x o good) :
    exec (.blockCompletion x o) s = .next ((s.withOctet x o).completeBlock x o) := by
  obtain ⟨hears, hpos, -⟩ := h
  have ⟨_, hst, _⟩ := hears
  have harm : exec (.blockCompletion x o) s = .next (s.running fun s => s.receiveOctet x o) := rfl
  have htake : (s.withOctet x o).takeOctet x o = (s.withOctet x o).completeBlock x o := by
    simp [State.takeOctet, hst, hpos]
  rw [harm, s.octet_taken x o .check hears, htake]

/-- The check is good where the register equals the two check octets (R4). -/
theorem State.goodCheck_of_endsBlock (s : State) (x : Line) (o : Byte) (good : Bool) (h : s.endsBlock x o good) :
    ((s.withOctet x o).rx.get x).goodCheck o = good := by
  obtain ⟨-, -, k, held, hk, hheld, hgood⟩ := h
  rw [Bool.eq_iff_iff, hgood]
  simp only [Receiver.goodCheck, State.withOctet_rx_get, hk, hheld, wordOf]
  exact decide_eq_true_iff

/-- The receiver once the second check octet has ended its block. -/
theorem Receiver.completed_eq (r : Receiver) (o : Byte) :
    Receiver.enter (Receiver.endBlock { r with history := octetBits o, position := 2, deadline := .stopped }) .gap =
      r.completed o :=
  rfl

/-- A block whose check is not good (R29). -/
theorem State.completeBlock_of_bad (s : State) (x : Line) (o : Byte) (h : s.endsBlock x o false) :
    (s.withOctet x o).completeBlock x o =
      ((s.countRx x fun c => { c with checkFailures := satAdd c.checkFailures 1 }).returnBlock x).modRx x fun r =>
        r.completed o := by
  have hback := State.returnBlock_modRx (s.countRx x fun c => { c with checkFailures := satAdd c.checkFailures 1 }) x
    (fun r => { r with history := octetBits o, position := 2, deadline := .stopped }) rfl
  simp only [State.completeBlock, s.goodCheck_of_endsBlock x o false h, Bool.false_eq_true, if_false]
  rw [State.withOctet, State.modRx_modRx, State.abandon, State.modRx_modRx]
  refine (congrArg (State.modRx · x fun r => Receiver.enter (Receiver.endBlock r) .gap) hback).trans ?_
  rw [State.modRx_modRx]
  simp only [Receiver.completed_eq]

/-- Settles O23: the block goes back, and the receiver is in GAP. -/
theorem badCheckAbandonsTheBlock : Obligations.BadCheckAbandonsTheBlock := by
  intro s x o h
  refine ⟨_, by rw [exec_blockCompletion_of_endsBlock s x o false h, s.completeBlock_of_bad x o h], by simp, by simp [satAdd],
    ?back, ?frame⟩
  case back =>
    exact State.givesBack_returnBlock (s.countRx x fun c => { c with checkFailures := satAdd c.checkFailures 1 }) x
  case frame =>
    exact State.changesOnly_mono
      (State.changesOnly_trans (State.changesOnly_trans (s.changesOnly_countRx x _) (State.changesOnly_returnBlock _ x))
        (State.changesOnly_modRx _ x _)) (by simp)

/-- A block whose check is good is dispatched, and the receiver is in GAP (R28). -/
theorem State.completeBlock_of_good (s : State) (x : Line) (o : Byte) (h : s.endsBlock x o true) :
    (s.withOctet x o).completeBlock x o =
      ((s.modRx x fun r => { r with history := octetBits o, position := 2, deadline := .stopped }).dispatch x
        (s.rx.get x).len).modRx x fun r => (r.endBlock).enter .gap := by
  simp only [State.completeBlock, s.goodCheck_of_endsBlock x o true h, if_true]
  rw [State.modRx_modRx, State.withOctet, State.modRx_modRx, State.modRx_rx, PerLine.get_modify_same]
  rfl

/-- Settles O24: the first check octet is held, and a good block without a descriptor is only counted. -/
theorem checkOctetsAndGoodSinkBlocks : Obligations.CheckOctetsAndGoodSinkBlocks := by
  intro s x o
  refine ⟨fun hears hpos => ?held, fun hends hfill => ?counted⟩
  case held =>
    rw [exec_checkOctet_of_hears s x o hears hpos, State.takeCheck, State.withOctet_modRx]
  case counted =>
    rw [exec_blockCompletion_of_endsBlock s x o true hends, s.completeBlock_of_good x o hends, State.dispatch,
      State.modRx_rx, PerLine.get_modify_same, hfill]
    simp only [State.modRx, State.countRx, PerLine.modify_modify]
    rfl

end Sys2Proof.Machine

/-! PROOF. The decision at header completion (sections 4.3 and 5.2): a stored block for the own station address, and the
lookup of every other one. -/

namespace Sys2Proof.Machine

/-! ### The header as it stands in the descriptor (R26) -/

/-- The part when the six octets of a header are placed and stored, and written into the descriptor. -/
def State.headerStored (s : State) (x : Line) (o dst src kind seq hi : Byte) (d c k : Nat) : State :=
  State.modRx
    { s with
      buf :=
        { s.buf with
          mem := s.buf.mem.write (cellAddress c k) o
          descs := s.buf.descs.modify d fun v => { v with dst, src, kind, seq, len := wordOf hi o } } }
    x fun r => { r.placed o with cell := some ⟨c, k + 1⟩ }

section

variable {s : State} {x : Line} {o dst src kind seq hi : Byte} {d c k : Nat}

/-- The sixth octet of a well-formed header of a stored block brings the decision of section 5.2. -/
theorem exec_headerCompletion_of_endsHeader (h : s.endsHeader x d c k)
    (hheader : (s.rx.get x).header = [dst, src, kind, seq, hi]) (hlen : wordOf hi o ≤ 1020) :
    exec (.headerCompletion x o) s =
      .next (((s.headerStored x o dst src kind seq hi d c k).decideBlock x d).modRx x
        (Receiver.leaveHeader (wordOf hi o))) := by
  obtain ⟨hears, hpos, hfive, ⟨hfill, -, -⟩, hcell, hk, -, -⟩ := h
  have hhi : (s.rx.get x).header.getD 4 0 = hi := by rw [hheader]; rfl
  have hwrite : (s.modRx x fun r => r.placed o).storeOctet x o =
      (s.modRx x fun r => r.placed o).writeCurrent x ⟨c, k⟩ o :=
    State.storeOctet_of_room _ x o d c k (by simpa [Receiver.placed] using hfill) (by simpa [Receiver.placed] using hcell) hk
  have hmerge : (s.modRx x fun r => r.placed o).writeCurrent x ⟨c, k⟩ o =
      State.modRx { s with buf := { s.buf with mem := s.buf.mem.write (cellAddress c k) o } } x
        fun r => { r.placed o with cell := some ⟨c, k + 1⟩ } :=
    State.modRx_modRx { s with buf := { s.buf with mem := s.buf.mem.write (cellAddress c k) o } } x
      (fun r => r.placed o) fun r => { r with cell := some ⟨c, k + 1⟩ }
  have hfilling : ((State.modRx { s with buf := { s.buf with mem := s.buf.mem.write (cellAddress c k) o } } x
      fun r => { r.placed o with cell := some ⟨c, k + 1⟩ }).rx.get x).filling = some d := by
    simpa [Receiver.placed] using hfill
  have hregister : ((State.modRx { s with buf := { s.buf with mem := s.buf.mem.write (cellAddress c k) o } } x
      fun r => { r.placed o with cell := some ⟨c, k + 1⟩ }).rx.get x).header = [dst, src, kind, seq, hi, o] := by
    simp [Receiver.placed, hheader]
  rw [exec_headerCompletion_of_hears s x o hears hpos,
    s.completeHeader_of_stored x o d hfive (by rw [hhi]; exact hlen) (by rw [hwrite, hmerge, hfilling]), hwrite, hmerge,
    hregister, hhi]
  rfl

@[simp] theorem State.headerStored_kept :
    (s.headerStored x o dst src kind seq hi d c k).self = s.self ∧
      (s.headerStored x o dst src kind seq hi d c k).config = s.config ∧
      (s.headerStored x o dst src kind seq hi d c k).routes = s.routes ∧
      (s.headerStored x o dst src kind seq hi d c k).emitter = s.emitter ∧
      (s.headerStored x o dst src kind seq hi d c k).count = s.count :=
  ⟨rfl, rfl, rfl, rfl, rfl⟩

theorem State.headerStored_desc_same (h : s.endsHeader x d c k) :
    (s.headerStored x o dst src kind seq hi d c k).buf.desc d =
      { s.buf.desc d with dst, src, kind, seq, len := wordOf hi o } := by
  obtain ⟨-, -, -, ⟨-, hd, hlen⟩, -⟩ := h
  exact Buffer.desc_modDesc_same s.buf d _ (by omega)

theorem State.headerStored_desc_other {n : Nat} (hn : n ≠ d) :
    (s.headerStored x o dst src kind seq hi d c k).buf.desc n = s.buf.desc n :=
  Buffer.desc_modDesc_other s.buf _ hn

theorem State.read_sixth_octet (h : s.endsHeader x d c k) (a : Nat) :
    (s.buf.mem.write (cellAddress c k) o).read a = if a = 64 * c + k then o else s.buf.mem.read a := by
  obtain ⟨-, -, -, -, -, hk, hc, hwf⟩ := h
  exact Memory.read_write_cell s.buf.mem c k a o hc hk hwf

/-- The receiver past the header, its block kept or turned to SINK. -/
theorem State.headerStored_receiver (hheader : (s.rx.get x).header = [dst, src, kind, seq, hi]) :
    Receiver.leaveHeader (wordOf hi o) ((s.headerStored x o dst src kind seq hi d c k).rx.get x) =
      { (s.rx.get x).headed o with cell := some ⟨c, k + 1⟩ } := by
  have hhi : (s.rx.get x).header.getD 4 0 = hi := by rw [hheader]; rfl
  rw [Receiver.headed_eq, hhi]
  simp only [State.headerStored, State.modRx_rx, PerLine.get_modify_same]
  rfl

theorem State.changesOnly_headerStored :
    s.changesOnly (s.headerStored x o dst src kind seq hi d c k) [.cells, .descs, .rx x] := by
  refine State.changesOnly_trans (ps := [.cells, .descs]) ?_ (State.changesOnly_modRx _ x _)
  intro p hp
  cases p
  case cells | descs => simp at hp
  all_goals simp [Part.same]

/-! ### A block for the own station address (R82, R83) -/

/-- Turning the stored block of a finished header to SINK: what goes back, and the receiver. -/
theorem State.sinkBlock_headerStored (u : State) (hrx : u.rx = (s.headerStored x o dst src kind seq hi d c k).rx)
    (hheader : (s.rx.get x).header = [dst, src, kind, seq, hi]) :
    (((u.sinkBlock x).modRx x (Receiver.leaveHeader (wordOf hi o))).rx.get x) =
      { (s.rx.get x).headed o with disposition := some .sink, filling := none, cell := none } := by
  have hreceiver := State.headerStored_receiver (o := o) (d := d) (c := c) (k := k) hheader
  rw [← hrx] at hreceiver
  have hsink (r : Receiver) : Receiver.leaveHeader (wordOf hi o) r.toSink =
      { Receiver.leaveHeader (wordOf hi o) r with disposition := some .sink, filling := none, cell := none } := rfl
  simp only [State.sinkBlock, State.modRx_rx, State.returnBlock_kept, PerLine.get_modify_same, hsink, hreceiver]

/-- A descriptor given back is the same whatever its header fields. -/
theorem Buffer.returned_of_same {b b' t : Buffer} (h : b'.returned t d) (hchain : (b'.desc d).chain = (b.desc d).chain)
    (hother : ∀ n, n ≠ d → b'.desc n = b.desc n) (hdescs : b'.freeDescs = b.freeDescs) (hcells : b'.freeCells = b.freeCells)
    (harmed : b'.lowArmed = b.lowArmed) (hpart : b'.freePart = b.freePart) (htickets : b'.freeTickets = b.freeTickets)
    (htable : b'.tickets = b.tickets) (hhwCells : b'.hwCells = b.hwCells) (hhwDescs : b'.hwDescs = b.hwDescs) :
    b.returned t d := by
  unfold Buffer.returned at h ⊢
  rw [hchain, hdescs, hcells, harmed, hpart, htickets, htable, hhwCells, hhwDescs] at h
  obtain ⟨h1, h2, h3, h4, h5, h6, h7, hrest⟩ := h
  exact ⟨h1, h2, h3, h4, h5, h6, fun n hn => (h7 n hn).trans (hother n hn), hrest⟩

theorem Buffer.freedEvents_of_same {b b' : Buffer} (hchain : (b'.desc d).chain = (b.desc d).chain)
    (hcells : b'.freeCells = b.freeCells) (harmed : b'.lowArmed = b.lowArmed) : b'.freedEvents d = b.freedEvents d := by
  rw [Buffer.freedEvents, Buffer.freedEvents, hchain, hcells, harmed]

/-- What goes back of a block whose header stands in its descriptor is what went back before. -/
theorem State.givesBack_headerStored {t : State} (h : s.endsHeader x d c k)
    (hback : (s.headerStored x o dst src kind seq hi d c k).givesBack t x []) : s.givesBack t x [] := by
  have ⟨_, _, _, ⟨hfill, _, _⟩, _⟩ := h
  have hfill' : ((s.headerStored x o dst src kind seq hi d c k).rx.get x).filling = some d := by
    simpa [State.headerStored, Receiver.placed] using hfill
  have hdesc := State.headerStored_desc_same (o := o) (dst := dst) (src := src) (kind := kind) (seq := seq) (hi := hi) h
  have hbound : ((s.headerStored x o dst src kind seq hi d c k).buf.desc d).bound = (s.buf.desc d).bound := by rw [hdesc]
  have hchain : ((s.headerStored x o dst src kind seq hi d c k).buf.desc d).chain = (s.buf.desc d).chain := by rw [hdesc]
  unfold State.givesBack at hback ⊢
  rw [hfill'] at hback
  rw [hfill]
  intro hd hlen
  obtain ⟨hreturned, hbind, hemitter⟩ := hback hd (by simpa [State.headerStored] using hlen)
  refine ⟨Buffer.returned_of_same hreturned hchain (fun n hn => State.headerStored_desc_other hn) rfl rfl rfl rfl rfl rfl
    rfl rfl, ?_, ?_⟩
  · unfold State.bindReleased at hbind ⊢
    rwa [hbound] at hbind
  · rw [hemitter, State.returnEvents, State.returnEvents, hbound, Buffer.freedEvents_of_same hchain rfl rfl]
    rfl

end

/-- Settles O19: KIND MGMT on a permitted line is marked; every other block for the own address goes back. -/
theorem blocksForTheOwnStationAddress : Obligations.BlocksForTheOwnStationAddress := by
  intro s x o dst src kind seq hi d c k h hheader hlen hself
  have hdesc := State.headerStored_desc_same (o := o) (dst := dst) (src := src) (kind := kind) (seq := seq) (hi := hi) h
  have hexec := exec_headerCompletion_of_endsHeader h hheader hlen
  have hown : ((s.headerStored x o dst src kind seq hi d c k).buf.desc d).dst =
      (s.headerStored x o dst src kind seq hi d c k).self := by rw [hdesc]; exact hself
  have hkind : ((s.headerStored x o dst src kind seq hi d c k).buf.desc d).kind = kind := by rw [hdesc]
  refine ⟨fun hmgmt hpermitted => ?marked, fun hrefused => ?returned⟩
  case marked =>
    have hdecide : (s.headerStored x o dst src kind seq hi d c k).decideBlock x d =
        (s.headerStored x o dst src kind seq hi d c k).modDesc d fun v => { v with mark := true } := by
      rw [State.decideBlock, if_pos hown, if_pos (hkind.trans hmgmt), if_pos (by simpa using hpermitted)]
    refine ⟨_, by rw [hexec, hdecide], ?_, ?_, fun a => ?_, ?_⟩
    · rw [State.modRx_rx, PerLine.get_modify_same]
      exact State.headerStored_receiver hheader
    · exact List.modify_modify_eq ..
    · exact State.read_sixth_octet h a
    · exact State.changesOnly_mono
        (State.changesOnly_trans
          (State.changesOnly_trans State.changesOnly_headerStored (State.changesOnly_modDesc _ d _))
          (State.changesOnly_modRx _ x _)) (by simp)
  case returned =>
    let count : RxCounters → RxCounters := fun v =>
      if kind = 0xF0 then { v with mgmtRefused := satAdd v.mgmtRefused 1 }
      else { v with strayToSelf := satAdd v.strayToSelf 1 }
    have hdecide : (s.headerStored x o dst src kind seq hi d c k).decideBlock x d =
        ((s.headerStored x o dst src kind seq hi d c k).countRx x count).sinkBlock x := by
      rw [State.decideBlock, if_pos hown, hkind]
      by_cases hmgmt : kind = 0xF0
      · rw [if_pos hmgmt, if_neg (by simpa using hrefused hmgmt)]
        simp only [count, if_pos hmgmt]
      · rw [if_neg hmgmt]
        simp only [count, if_neg hmgmt]
    refine ⟨_, by rw [hexec, hdecide], ?_, ?_, fun a => ?_, ?_, ?_⟩
    · exact State.sinkBlock_headerStored _ rfl hheader
    · simp only [State.modRx_kept, State.sinkBlock_kept, State.countRx_count, PerLine.get_modify_same,
        State.headerStored_kept, count]
      rfl
    · rw [← State.read_sixth_octet h a]
      exact congrArg (Memory.read · a) (State.returnBlock_mem _ x)
    · exact State.givesBack_headerStored h
        (State.givesBack_returnBlock ((s.headerStored x o dst src kind seq hi d c k).countRx x count) x)
    · exact State.changesOnly_mono
        (State.changesOnly_trans
          (State.changesOnly_trans
            (State.changesOnly_trans
              (State.changesOnly_trans State.changesOnly_headerStored (State.changesOnly_countRx _ x _))
              (State.changesOnly_returnBlock _ x))
            (State.changesOnly_modRx _ x _))
          (State.changesOnly_modRx _ x _)) (by simp)

/-! ### The lookup (R63, R85) -/

theorem State.lookup_of_active (s : State) (x : Line) (d n : Nat) (e : Entry)
    (hfind : s.routes.find x (s.buf.desc d).dst = some n) (he : s.routes.slot n = .active e) :
    s.lookup x d =
      ({ s with routes := s.routes.setSlot n (.active { e with binds := e.binds + 1 }) }).modDesc d fun v =>
        v.capture n e := by
  simp [State.lookup, hfind, he]

theorem State.lookup_of_none (s : State) (x : Line) (d : Nat) (hfind : s.routes.find x (s.buf.desc d).dst = none) :
    s.lookup x d =
      (s.modDesc d fun v => v.captureDefault x (s.routes.defaults.get x)).countRx x fun c =>
        { c with defaultHits := satAdd c.defaultHits 1 } := by
  simp [State.lookup, hfind]

theorem State.countRx_buf (s : State) (x : Line) (f : RxCounters → RxCounters) : (s.countRx x f).buf = s.buf := rfl

theorem State.decideBlock_of_traffic (s : State) (x : Line) (d : Nat) (h : (s.buf.desc d).dst ≠ s.self) :
    s.decideBlock x d =
      if ((s.lookup x d).buf.desc d).action = .discard then (s.lookup x d).sinkBlock x else s.lookup x d := by
  rw [State.decideBlock, if_neg h]

section

variable {s : State} {x : Line} {o dst src kind seq hi : Byte} {d c k : Nat}

theorem State.headerStored_dst (h : s.endsHeader x d c k) :
    ((s.headerStored x o dst src kind seq hi d c k).buf.desc d).dst = dst := by
  rw [State.headerStored_desc_same h]

/-- The decision that a matched slot brings (R63, R85). -/
theorem State.lookup_headerStored_of_active {n : Nat} {e : Entry} (h : s.endsHeader x d c k) (hunique : s.KeysUnique)
    (he : s.routes.slot n = .active e) (hline : e.keyLine = x) (hdst : e.keyDst = dst) :
    (s.headerStored x o dst src kind seq hi d c k).lookup x d =
      ({ s.headerStored x o dst src kind seq hi d c k with
          routes := s.routes.setSlot n (.active { e with binds := e.binds + 1 }) }).modDesc d fun v => v.capture n e := by
  refine State.lookup_of_active _ x d n e ?_ he
  rw [State.headerStored_dst h]
  exact State.find_of_key hunique he hline hdst

/-- The decision of the line's default route (R63, R85). -/
theorem State.lookup_headerStored_of_none (h : s.endsHeader x d c k)
    (hnone : ∀ v ∈ s.routes.slots, v.matches x dst = false) :
    (s.headerStored x o dst src kind seq hi d c k).lookup x d =
      ((s.headerStored x o dst src kind seq hi d c k).modDesc d fun v =>
        v.captureDefault x (s.routes.defaults.get x)).countRx x fun c =>
          { c with defaultHits := satAdd c.defaultHits 1 } := by
  refine State.lookup_of_none _ x d ?_
  rw [State.headerStored_dst h]
  exact RouteTable.find_eq_none hnone

theorem State.headerStored_descs_length :
    (s.headerStored x o dst src kind seq hi d c k).buf.descs.length = s.buf.descs.length := by
  simp [State.headerStored]

/-- A route that forwards keeps the block. -/
theorem State.decideBlock_headerStored_of_kept (u : State) (h : s.endsHeader x d c k) (hother : dst ≠ s.self)
    (hlookup : (s.headerStored x o dst src kind seq hi d c k).lookup x d = u)
    (haction : (u.buf.desc d).action ≠ .discard) :
    (s.headerStored x o dst src kind seq hi d c k).decideBlock x d = u := by
  rw [State.decideBlock_of_traffic _ x d (by rw [State.headerStored_dst h]; exact hother), hlookup, if_neg haction]

/-- A route that discards turns the block to SINK. -/
theorem State.decideBlock_headerStored_of_discarded (u : State) (h : s.endsHeader x d c k) (hother : dst ≠ s.self)
    (hlookup : (s.headerStored x o dst src kind seq hi d c k).lookup x d = u)
    (haction : (u.buf.desc d).action = .discard) :
    (s.headerStored x o dst src kind seq hi d c k).decideBlock x d = u.sinkBlock x := by
  rw [State.decideBlock_of_traffic _ x d (by rw [State.headerStored_dst h]; exact hother), hlookup, if_pos haction]

end

/-- Settles O20: the lookup finds the one slot with the key, and its route is captured. -/
theorem lookupMatchesAnActiveSlot : Obligations.LookupMatchesAnActiveSlot := by
  intro s x o dst src kind seq hi d c k n e egress cls rewrite h hunique hheader hlen hother he hline hdst hroute
  have ⟨_, _, _, ⟨_, hd, hdescs⟩, _⟩ := h
  have hlookup := State.lookup_headerStored_of_active (o := o) (src := src) (kind := kind) (seq := seq) (hi := hi) h hunique
    he hline hdst
  have hcapture (v : Descriptor) : v.capture n e =
      { v with mark := false, action := .forward, egress, cls, txDst := rewrite.getD v.dst, bound := .slot n } := by
    rw [Descriptor.capture, hroute]
  have hdecide := State.decideBlock_headerStored_of_kept _ h hother hlookup (by
    rw [State.modDesc_buf, Buffer.desc_modDesc_same _ d _ (by rw [State.headerStored_descs_length]; omega), hcapture]
    simp)
  refine ⟨_, by rw [exec_headerCompletion_of_endsHeader h hheader hlen, hdecide], ?_, ?_, rfl, fun a => ?_, ?_⟩
  · rw [State.modRx_rx, PerLine.get_modify_same]
    exact State.headerStored_receiver hheader
  · refine (List.modify_modify_eq ..).trans (congrArg (List.modify _ d) (funext fun v => ?_))
    exact hcapture _
  · exact State.read_sixth_octet h a
  · have hslots : State.changesOnly (s.headerStored x o dst src kind seq hi d c k)
        { s.headerStored x o dst src kind seq hi d c k with
          routes := s.routes.setSlot n (.active { e with binds := e.binds + 1 }) } [.slots] := by
      intro p hp
      cases p
      case slots => simp at hp
      all_goals simp [Part.same, RouteTable.setSlot]
    exact State.changesOnly_mono
      (State.changesOnly_trans
        (State.changesOnly_trans (State.changesOnly_trans State.changesOnly_headerStored hslots)
          (State.changesOnly_modDesc _ d _))
        (State.changesOnly_modRx _ x _)) (by simp)

/-- Settles O21: no slot is found, and the line's default route is captured. -/
theorem lookupMissTakesTheDefaultRoute : Obligations.LookupMissTakesTheDefaultRoute := by
  intro s x o dst src kind seq hi d c k egress cls h hheader hlen hother hnone hroute
  have ⟨_, _, _, ⟨_, hd, hdescs⟩, _⟩ := h
  have hlookup := State.lookup_headerStored_of_none (o := o) (src := src) (kind := kind) (seq := seq) (hi := hi) h hnone
  have hdecide := State.decideBlock_headerStored_of_kept _ h hother hlookup (by
    rw [State.countRx_buf, State.modDesc_buf, Buffer.desc_modDesc_same _ d _ (by rw [State.headerStored_descs_length]; omega),
      hroute]
    simp [Descriptor.captureDefault])
  refine ⟨_, by rw [exec_headerCompletion_of_endsHeader h hheader hlen, hdecide], ?_, ?_, ?_, fun a => ?_, ?_⟩
  · rw [State.modRx_rx, PerLine.get_modify_same]
    exact State.headerStored_receiver hheader
  · refine (List.modify_modify_eq ..).trans (congrArg (List.modify _ d) (funext fun v => ?_))
    simp only [Function.comp_apply, hroute]
    rfl
  · simp [satAdd]
  · exact State.read_sixth_octet h a
  · exact State.changesOnly_mono
      (State.changesOnly_trans
        (State.changesOnly_trans
          (State.changesOnly_trans State.changesOnly_headerStored (State.changesOnly_modDesc _ d _))
          (State.changesOnly_countRx _ x _))
        (State.changesOnly_modRx _ x _)) (by simp)

/-! ### Routes that discard (R86) -/

/-- A part found as it was is none that a step changes. -/
theorem State.changesOnly_of_same {s t : State} {p : Part} {ps : List Part} (h : s.changesOnly t (p :: ps))
    (hsame : p.same s t) : s.changesOnly t ps := by
  intro q hq
  by_cases hqp : q = p
  · exact hqp ▸ hsame
  · exact h q (by simp [hqp, hq])

/-- A bind that is given back at once leaves the table as it was. -/
theorem RouteTable.release_rebound (r : RouteTable) (n : Nat) (e : Entry) (he : r.slot n = .active e) :
    (r.setSlot n (.active { e with binds := e.binds + 1 })).release n = (r, []) := by
  have hget := RouteTable.slot_eq_active_iff.1 he
  obtain ⟨hn, -⟩ := List.getElem?_eq_some_iff.1 hget
  have hslot : (r.setSlot n (.active { e with binds := e.binds + 1 })).slot n = .active { e with binds := e.binds + 1 } := by
    rw [RouteTable.slot_eq_active_iff, RouteTable.setSlot, List.getElem?_set_self hn]
  have hback : r.slots.set n (.active e) = r.slots := by
    obtain ⟨hn', hentry⟩ := List.getElem?_eq_some_iff.1 hget
    rw [← hentry, List.set_getElem_self]
  rw [RouteTable.release, hslot]
  simp only [RouteTable.setSlot, List.set_set, Nat.add_sub_cancel]
  rw [hback]

section

variable {s : State} {x : Line} {o dst src kind seq hi : Byte} {d c k : Nat}

/-- A block that its route discards goes back with what it holds, and its bind leaves the table as it was. -/
theorem State.returnBlock_of_discarded (u : State) (g : Descriptor → Descriptor) (h : s.endsHeader x d c k)
    (hfill : (u.rx.get x).filling = some d)
    (hbuf : u.buf = (s.headerStored x o dst src kind seq hi d c k).buf.modDesc d g) (hg : ∀ v, (g v).chain = v.chain)
    (hemitter : (u.releaseBind d).emitter = s.emitter) :
    s.buf.returned (u.returnBlock x).buf d ∧ (u.returnBlock x).emitter = s.emitter.hear (s.buf.freedEvents d) := by
  have ⟨_, _, _, ⟨_, hd, hdescs⟩, _⟩ := h
  have hreturn : u.returnBlock x = (u.releaseBind d).freeDesc d := by simp [State.returnBlock, hfill]
  have hreleased : (u.releaseBind d).buf =
      (s.headerStored x o dst src kind seq hi d c k).buf.modDesc d (fun v => { g v with bound := .none }) := by
    rw [State.releaseBind_buf, hbuf, Buffer.modDesc, Buffer.modDesc, Buffer.modDesc, List.modify_modify_eq]
    rfl
  have hlength : (s.headerStored x o dst src kind seq hi d c k).buf.descs.length = 128 :=
    State.headerStored_descs_length.trans hdescs
  obtain ⟨hreturned, hevents⟩ := Buffer.freeDesc_returned (u.releaseBind d).buf d hd (by rw [hreleased]; simpa using hlength)
  have hchain : ((u.releaseBind d).buf.desc d).chain = (s.buf.desc d).chain := by
    rw [hreleased, Buffer.desc_modDesc_same _ d _ (by omega)]
    exact (hg _).trans (by rw [State.headerStored_desc_same h])
  have hother (n : Nat) (hn : n ≠ d) : (u.releaseBind d).buf.desc n = s.buf.desc n := by
    rw [hreleased, Buffer.desc_modDesc_other _ _ hn, State.headerStored_desc_other hn]
  rw [hreturn]
  refine ⟨?_, ?_⟩
  · refine Buffer.returned_of_same hreturned hchain hother ?_ ?_ ?_ ?_ ?_ ?_ ?_ ?_ <;> rw [hreleased] <;> rfl
  · rw [State.freeDesc, State.withBuf_emitter, hemitter, hevents,
      Buffer.freedEvents_of_same hchain (by rw [hreleased]; rfl) (by rw [hreleased]; rfl)]

end

/-- Settles O22: the lookup binds the block, the discard gives the bind back, and the block is SINK. -/
theorem routeDiscardsTheBlock : Obligations.RouteDiscardsTheBlock := by
  intro s x o dst src kind seq hi d c k h hunique hheader hlen hother
  have ⟨_, _, _, ⟨hfill, hd, hdescs⟩, _⟩ := h
  have hexec := exec_headerCompletion_of_endsHeader h hheader hlen
  have hbound : d < (s.headerStored x o dst src kind seq hi d c k).buf.descs.length := by
    rw [State.headerStored_descs_length]
    omega
  have hfilling : ((s.headerStored x o dst src kind seq hi d c k).rx.get x).filling = some d := by
    simpa [State.headerStored, Receiver.placed] using hfill
  refine ⟨fun n e he hline hdst hroute => ?slot, fun hnone hroute => ?default⟩
  case slot =>
    have hcapture (v : Descriptor) :
        v.capture n e = { v with mark := false, action := .discard, txDst := v.dst, bound := .slot n } := by
      rw [Descriptor.capture, hroute]
    let bound : State := { s.headerStored x o dst src kind seq hi d c k with
      routes := s.routes.setSlot n (.active { e with binds := e.binds + 1 }) }
    let u : State := bound.modDesc d fun v => v.capture n e
    have hcaptured : u.buf.desc d = ((s.headerStored x o dst src kind seq hi d c k).buf.desc d).capture n e :=
      Buffer.desc_modDesc_same _ d _ hbound
    have hdecide := State.decideBlock_headerStored_of_discarded u h hother
      (State.lookup_headerStored_of_active h hunique he hline hdst) (by rw [hcaptured, hcapture])
    have hrelease : u.releaseBind d = (u.modDesc d fun v => { v with bound := .none }).withRoutes (s.routes, []) := by
      simp only [State.releaseBind, hcaptured, hcapture]
      exact congrArg _ (s.routes.release_rebound n e he)
    have hroutes : (u.releaseBind d).routes = s.routes := by rw [hrelease]; rfl
    obtain ⟨hreturned, hemitter⟩ := State.returnBlock_of_discarded u _ h hfilling rfl (fun v => v.capture_chain n e)
      (by rw [hrelease]; exact Emitter.hear_nil _)
    have hslots : s.changesOnly bound [.cells, .descs, .rx x, .slots] := by
      refine State.changesOnly_trans (t := s.headerStored x o dst src kind seq hi d c k) State.changesOnly_headerStored
        (qs := [.slots]) ?_
      intro p hp
      cases p
      case slots => simp at hp
      all_goals simp [Part.same, bound, RouteTable.setSlot]
    refine ⟨_, by rw [hexec, hdecide], State.sinkBlock_headerStored u rfl hheader, hreturned, hemitter, fun a => ?_, ?_⟩
    · rw [← State.read_sixth_octet h a]
      exact congrArg (Memory.read · a) (u.returnBlock_mem x)
    · refine State.changesOnly_of_same (p := .slots) (State.changesOnly_mono
        (State.changesOnly_trans
          (State.changesOnly_trans
            (State.changesOnly_trans (State.changesOnly_trans hslots (bound.changesOnly_modDesc d _))
              (u.changesOnly_returnBlock x))
            (State.changesOnly_modRx _ x _))
          (State.changesOnly_modRx _ x _)) (by simp)) ?_
      have hreturn : u.returnBlock x = (u.releaseBind d).freeDesc d := by
        simp only [State.returnBlock, show (u.rx.get x).filling = some d from hfilling]
      exact congrArg RouteTable.slots ((congrArg State.routes hreturn).trans hroutes)
  case default =>
    let captured : State := (s.headerStored x o dst src kind seq hi d c k).modDesc d fun v =>
      v.captureDefault x (s.routes.defaults.get x)
    let u : State := captured.countRx x fun c => { c with defaultHits := satAdd c.defaultHits 1 }
    have hcaptured : u.buf.desc d = ((s.headerStored x o dst src kind seq hi d c k).buf.desc d).captureDefault x .discard := by
      rw [← hroute]
      exact Buffer.desc_modDesc_same _ d _ hbound
    have hdecide := State.decideBlock_headerStored_of_discarded u h hother
      (State.lookup_headerStored_of_none h hnone) (by rw [hcaptured, Descriptor.captureDefault])
    have hrelease : u.releaseBind d = u.modDesc d fun v => { v with bound := .none } := by
      simp only [State.releaseBind, hcaptured, Descriptor.captureDefault]
    obtain ⟨hreturned, hemitter⟩ := State.returnBlock_of_discarded u _ h hfilling rfl
      (fun v => v.captureDefault_chain x _) (by rw [hrelease]; rfl)
    refine ⟨_, by rw [hexec, hdecide], State.sinkBlock_headerStored u rfl hheader, ?_, hreturned, hemitter, fun a => ?_, ?_⟩
    · simp [u, captured, satAdd]
    · rw [← State.read_sixth_octet h a]
      exact congrArg (Memory.read · a) (u.returnBlock_mem x)
    · refine State.changesOnly_of_same (p := .slots) (State.changesOnly_mono
        (State.changesOnly_trans
          (State.changesOnly_trans
            (State.changesOnly_trans
              (State.changesOnly_trans
                (State.changesOnly_trans State.changesOnly_headerStored
                  ((s.headerStored x o dst src kind seq hi d c k).changesOnly_modDesc d _))
                (captured.changesOnly_countRx x _))
              (u.changesOnly_returnBlock x))
            (State.changesOnly_modRx _ x _))
          (State.changesOnly_modRx _ x _)) (by simp)) ?_
      have hreturn : u.returnBlock x = (u.releaseBind d).freeDesc d := by
        simp only [State.returnBlock, show (u.rx.get x).filling = some d from hfilling]
      exact congrArg RouteTable.slots ((congrArg State.routes hreturn).trans (by rw [hrelease]; rfl))

end Sys2Proof.Machine

/-! PROOF. Released tickets and freed descriptors (sections 3.4 and 3.5), as the statements describe them: one release, and
a sequence of them. -/

namespace Sys2Proof.Machine

/-! ### One descriptor or ticket changed -/

/-- A change that leaves the values of a descriptor that is none of the 128 as they read. -/
theorem Buffer.desc_modDesc (b : Buffer) (d n : Nat) (f : Descriptor → Descriptor) (hf : f {} = {}) :
    (b.modDesc d f).desc n = if n = d then f (b.desc d) else b.desc n := by
  by_cases hn : n = d
  · subst hn
    rw [if_pos rfl]
    rcases Nat.lt_or_ge n b.descs.length with hlt | hge
    · exact b.desc_modDesc_same n f hlt
    · simpa [Buffer.desc, Buffer.modDesc, List.getD_eq_getElem?_getD, Nat.not_lt.2 hge] using hf.symm
  · rw [if_neg hn, b.desc_modDesc_other f hn]

theorem Buffer.ticket_modTicket (b : Buffer) (k n : Nat) (f : Ticket → Ticket)
    (hf : f ⟨.free, 0, .a, .normal, 0⟩ = ⟨.free, 0, .a, .normal, 0⟩) :
    (b.modTicket k f).ticket n = if n = k then f (b.ticket k) else b.ticket n := by
  by_cases hn : n = k
  · subst hn
    rw [if_pos rfl]
    rcases Nat.lt_or_ge n b.tickets.length with hlt | hge
    · exact b.ticket_modTicket_same n f hlt
    · simpa [Buffer.ticket, Buffer.modTicket, List.getD_eq_getElem?_getD, Nat.not_lt.2 hge] using hf.symm
  · rw [if_neg hn, b.ticket_modTicket_other f hn]

/-! ### A freed descriptor (R40, R46, R47, R53) -/

/-- The descriptor that a freeing leaves. -/
def Descriptor.freed (v : Descriptor) : Descriptor :=
  { v with state := .free, chain := [], tickets := 0, bound := .none }

/-- A release of cells never lowers their number: it can only arm the flag. -/
theorem Buffer.threshold_of_le (b : Buffer) (n : Nat) (h : n ≤ b.freeCells.length) :
    b.threshold n =
      ({ b with lowArmed := b.lowArmed || decide (n ≤ 96 ∧ 96 < b.freeCells.length) },
        if b.lowArmed = false ∧ n ≤ 96 ∧ 96 < b.freeCells.length then [.bufferRecovered] else []) := by
  have hlow : ¬(48 ≤ n ∧ b.freeCells.length < 48) := by omega
  unfold Buffer.threshold
  rw [if_neg (by rintro ⟨-, hclaim⟩; exact hlow hclaim)]
  by_cases hrise : b.lowArmed = false ∧ n ≤ 96 ∧ 96 < b.freeCells.length
  · rw [if_pos hrise, if_pos hrise, decide_eq_true hrise.2, Bool.or_true]
  · have hkept : (b.lowArmed || decide (n ≤ 96 ∧ 96 < b.freeCells.length)) = b.lowArmed := by
      cases harmed : b.lowArmed
      · exact decide_eq_false fun hcells => hrise ⟨harmed, hcells⟩
      · rfl
    rw [if_neg hrise, if_neg hrise, hkept]

theorem Buffer.freeDesc_desc (b : Buffer) (d n : Nat) :
    (b.freeDesc d).1.desc n = if n = d then (b.desc d).freed else b.desc n := by
  have hmod : (b.freeDesc d).1.desc n = (b.modDesc d Descriptor.freed).desc n := by
    rw [Buffer.desc, Buffer.freeDesc_descs]
    rfl
  rw [hmod, b.desc_modDesc d n _ rfl]

/-- A freed general descriptor arms the flag where its cells take the free ones past 96. -/
theorem Buffer.freeDesc_armed (b : Buffer) (d : Nat) :
    (b.freeDesc d).1.lowArmed = b.armed (b.freeDesc d).1 ∧
      (b.freeDesc d).2 =
        if b.lowArmed = false ∧ b.freeCells.length ≤ 96 ∧ 96 < (b.freeDesc d).1.freeCells.length then [.bufferRecovered]
        else [] := by
  rcases Nat.lt_or_ge d 126 with hd | hd
  · have hfree : b.freeDesc d =
        ({ b.modDesc d Descriptor.freed with
          freeCells := b.freeCells ++ (b.desc d).chain
          freeDescs := b.freeDescs ++ [d] } : Buffer).threshold b.freeCells.length := by
      rw [Buffer.freeDesc, if_pos hd]
      rfl
    rw [hfree, Buffer.threshold_of_le _ _ (by simp)]
    exact ⟨rfl, rfl⟩
  · obtain ⟨-, hcells, -, harmed, hevents⟩ := b.freeDesc_partition d hd
    have hno : ¬(b.freeCells.length ≤ 96 ∧ 96 < b.freeCells.length) := by omega
    rw [harmed, hevents, Buffer.armed, hcells]
    simp [hno]

theorem State.frees_freeDesc (s : State) (d : Nat) : s.frees (s.freeDesc d) d true := by
  obtain ⟨harmed, hevents⟩ := s.buf.freeDesc_armed d
  refine ⟨?cells, ?descs, ?part, fun _ => ?freed, fun n hn => ?other, harmed, ?recovered, ?hwCells, ?hwDescs⟩
  case cells =>
    rcases Nat.lt_or_ge d 126 with hd | hd
    · simp [State.freeDesc, (s.buf.freeDesc_general d hd).1, hd]
    · simp [State.freeDesc, (s.buf.freeDesc_partition d hd).2.1, Nat.not_lt.2 hd]
  case descs =>
    rcases Nat.lt_or_ge d 126 with hd | hd
    · simp [State.freeDesc, (s.buf.freeDesc_general d hd).2.1, hd]
    · simp [State.freeDesc, (s.buf.freeDesc_partition d hd).2.2.1, Nat.not_lt.2 hd]
  case part =>
    rcases Nat.lt_or_ge d 126 with hd | hd
    · simp [State.freeDesc, (s.buf.freeDesc_general d hd).2.2, Nat.not_le.2 hd]
    · simp [State.freeDesc, (s.buf.freeDesc_partition d hd).1, hd]
  case freed => exact (s.buf.freeDesc_desc d d).trans (if_pos rfl)
  case other => exact (s.buf.freeDesc_desc d n).trans (if_neg hn)
  case recovered =>
    by_cases hrise : s.buf.lowArmed = false ∧ s.buf.freeCells.length ≤ 96 ∧ 96 < (s.buf.freeDesc d).1.freeCells.length
    · exact (congrArg s.emitter.hear (hevents.trans (if_pos hrise))).trans (if_pos hrise).symm
    · exact (congrArg s.emitter.hear (hevents.trans (if_neg hrise))).trans
        ((Emitter.hear_nil _).trans (if_neg hrise).symm)
  case hwCells => simp [State.freeDesc]
  case hwDescs => simp [State.freeDesc]

/-! ### A released ticket (R45, R46, R135) -/

theorem Buffer.dropTicket_kept (b : Buffer) (k : Nat) :
    (b.dropTicket k).mem = b.mem ∧ (b.dropTicket k).freeCells = b.freeCells ∧ (b.dropTicket k).freePart = b.freePart ∧
      (b.dropTicket k).freeDescs = b.freeDescs ∧ (b.dropTicket k).hwCells = b.hwCells ∧
      (b.dropTicket k).hwDescs = b.hwDescs ∧ (b.dropTicket k).lowArmed = b.lowArmed ∧
      (b.dropTicket k).descs.length = b.descs.length := by
  unfold Buffer.dropTicket
  dsimp only
  split_ifs <;> simp

theorem Buffer.dropTicket_ticket (b : Buffer) (k n : Nat) :
    (b.dropTicket k).ticket n = if n = k then { b.ticket k with state := .free } else b.ticket n := by
  have hmod : (b.dropTicket k).ticket n = (b.modTicket k fun v => { v with state := .free }).ticket n := by
    unfold Buffer.dropTicket
    dsimp only
    split_ifs <;> rfl
  rw [hmod, b.ticket_modTicket k n _ rfl]

theorem Buffer.dropTicket_desc (b : Buffer) (k n : Nat) :
    (b.dropTicket k).desc n =
      if n = (b.ticket k).desc then { b.desc n with tickets := (b.desc n).tickets - 1 } else b.desc n := by
  have hmod : (b.dropTicket k).desc n =
      (b.modDesc (b.ticket k).desc fun v => { v with tickets := v.tickets - 1 }).desc n := by
    unfold Buffer.dropTicket
    dsimp only
    split_ifs <;> rfl
  rw [hmod, b.desc_modDesc _ n _ rfl]
  split_ifs with hn
  · rw [hn]
  · rfl

theorem Buffer.dropTicket_freeTickets (b : Buffer) (k : Nat) :
    (b.dropTicket k).freeTickets = b.freeTickets ++ if k < 190 then [k] else [] := by
  unfold Buffer.dropTicket
  dsimp only
  split_ifs <;> simp

/-- The release of ticket `k` is the last one of its QUEUED descriptor (R46). -/
def Buffer.lastTicket (b : Buffer) (k : Nat) : Prop :=
  (b.desc (b.ticket k).desc).state = .queued ∧ (b.desc (b.ticket k).desc).tickets ≤ 1

theorem Buffer.dropTicket_desc_same (b : Buffer) (k : Nat) :
    (b.dropTicket k).desc (b.ticket k).desc =
      { b.desc (b.ticket k).desc with tickets := (b.desc (b.ticket k).desc).tickets - 1 } :=
  (b.dropTicket_desc k _).trans (if_pos rfl)

theorem State.releaseTicket_of_last (s : State) (k : Nat) (cause : Cause) (h : s.buf.lastTicket k) :
    s.releaseTicket k cause =
      (State.freeDesc { s with buf := s.buf.dropTicket k } (s.buf.ticket k).desc).countEngine fun c =>
        if (s.buf.desc (s.buf.ticket k).desc).origin = .reply ∧ cause ≠ .sent then
          { c with repliesLost := satAdd c.repliesLost 1 }
        else c := by
  obtain ⟨hqueued, htickets⟩ := h
  have hzero : (s.buf.desc (s.buf.ticket k).desc).tickets - 1 = 0 := by omega
  simp only [State.releaseTicket, s.buf.dropTicket_desc_same k, hqueued, hzero, and_self, if_true]
  split_ifs <;> rfl

theorem State.releaseTicket_of_not_last (s : State) (k : Nat) (cause : Cause) (h : ¬s.buf.lastTicket k) :
    s.releaseTicket k cause = { s with buf := s.buf.dropTicket k } := by
  have hnot : ¬((s.buf.desc (s.buf.ticket k).desc).state = .queued ∧ (s.buf.desc (s.buf.ticket k).desc).tickets - 1 = 0) :=
    fun ⟨hqueued, hzero⟩ => h ⟨hqueued, by omega⟩
  simp only [State.releaseTicket, s.buf.dropTicket_desc_same k, if_neg hnot]

/-- A descriptor freed right after one of its tickets is dropped is freed as the part stood before. -/
theorem State.frees_dropTicket {s t u : State} {k : Nat}
    (h : State.frees { s with buf := s.buf.dropTicket k } t (s.buf.ticket k).desc true) (hbuf : u.buf = t.buf)
    (hemitter : u.emitter = t.emitter) : s.frees u (s.buf.ticket k).desc true := by
  obtain ⟨-, hcells, hpart, hdescs, hhwCells, hhwDescs, harmed, -⟩ := s.buf.dropTicket_kept k
  obtain ⟨fcells, fdescs, fpart, ffreed, fother, farmed, frecovered, fhwCells, fhwDescs⟩ := h
  simp only [s.buf.dropTicket_desc_same k, hcells, hpart, hdescs, Buffer.armed, State.recovered, harmed, ← hbuf,
    ← hemitter] at fcells fdescs fpart ffreed fother farmed frecovered fhwCells fhwDescs
  exact ⟨by simpa using fcells, by simpa using fdescs, by simpa using fpart, fun _ => ffreed trivial,
    fun n hn => (fother n hn).trans ((s.buf.dropTicket_desc k n).trans (if_neg hn)), farmed, frecovered,
    fhwCells.trans hhwCells, fhwDescs.trans hhwDescs⟩

theorem State.frees_releaseTicket_of_last (s : State) (k : Nat) (cause : Cause) (h : s.buf.lastTicket k) :
    s.frees (s.releaseTicket k cause) (s.buf.ticket k).desc true := by
  rw [s.releaseTicket_of_last k cause h]
  exact State.frees_dropTicket (State.frees_freeDesc _ _) rfl rfl

/-- A dropped ticket alone frees nothing. -/
theorem State.frees_dropTicket_alone (s : State) (k : Nat) :
    s.frees { s with buf := s.buf.dropTicket k } (s.buf.ticket k).desc false := by
  obtain ⟨-, hcells, hpart, hdescs, hhwCells, hhwDescs, harmed, -⟩ := s.buf.dropTicket_kept k
  have hstay : ¬(s.buf.freeCells.length ≤ 96 ∧ 96 < s.buf.freeCells.length) := by omega
  refine ⟨by simp [hcells], by simp [hdescs], by simp [hpart], fun h => absurd h Bool.false_ne_true,
    fun n hn => (s.buf.dropTicket_desc k n).trans (if_neg hn), ?_, ?_, hhwCells, hhwDescs⟩
  · simp [Buffer.armed, hcells, harmed, hstay]
  · simp [State.recovered, hcells, hstay]

/-- The tickets and their free list after a release. -/
theorem State.releaseTicket_tickets (s : State) (k : Nat) (cause : Cause) :
    (s.releaseTicket k cause).buf.tickets = (s.buf.dropTicket k).tickets ∧
      (s.releaseTicket k cause).buf.freeTickets = (s.buf.dropTicket k).freeTickets := by
  by_cases hlast : s.buf.lastTicket k
  · rw [s.releaseTicket_of_last k cause hlast]
    simp [State.freeDesc]
  · rw [s.releaseTicket_of_not_last k cause hlast]
    exact ⟨rfl, rfl⟩

/-- A release leaves every ticket but the one released as it was. -/
theorem State.releaseTicket_ticket (s : State) (k : Nat) (cause : Cause) (n : Nat) :
    (s.releaseTicket k cause).buf.ticket n = if n = k then { s.buf.ticket k with state := .free } else s.buf.ticket n := by
  rw [← s.buf.dropTicket_ticket k n, Buffer.ticket, (s.releaseTicket_tickets k cause).1]
  rfl

/-- A release is what R45 and R46 say of it. -/
theorem State.releases_releaseTicket (s : State) (k : Nat) (cause : Cause) (sent : Bool)
    (hcause : sent = true ↔ cause = .sent) : s.releases (s.releaseTicket k cause) k sent := by
  have hfree : (s.releaseTicket k cause).buf.freeTickets = s.buf.freeTickets ++ if k < 190 then [k] else [] :=
    (s.releaseTicket_tickets k cause).2.trans (s.buf.dropTicket_freeTickets k)
  have hlost : cause ≠ .sent ↔ sent = false := by rw [← Bool.not_eq_true, not_congr hcause]
  refine ⟨s.releaseTicket_ticket k cause, hfree, ?_⟩
  by_cases hlast : s.buf.lastTicket k
  · have hdecide : decide ((s.buf.desc (s.buf.ticket k).desc).state = .queued ∧
        (s.buf.desc (s.buf.ticket k).desc).tickets ≤ 1) = true :=
      decide_eq_true hlast
    simp only [hdecide]
    refine ⟨s.frees_releaseTicket_of_last k cause hlast, fun h => absurd h.symm Bool.false_ne_true, ?_⟩
    rw [s.releaseTicket_of_last k cause hlast]
    simp only [State.countEngine_count, State.freeDesc_kept, hlost, true_and]
    rfl
  · have hdecide : decide ((s.buf.desc (s.buf.ticket k).desc).state = .queued ∧
        (s.buf.desc (s.buf.ticket k).desc).tickets ≤ 1) = false :=
      decide_eq_false hlast
    rw [s.releaseTicket_of_not_last k cause hlast]
    simp only [hdecide]
    exact ⟨s.frees_dropTicket_alone k, fun _ => s.buf.dropTicket_desc_same k, by simp⟩

theorem State.changesOnly_releaseTicket (s : State) (k : Nat) (cause : Cause) :
    s.changesOnly (s.releaseTicket k cause) [.tickets, .pools, .descs, .emitter, .engineCount] := by
  have hdrop : s.changesOnly { s with buf := s.buf.dropTicket k } [.tickets, .pools, .descs] := by
    intro p hp
    cases p
    case tickets | pools | descs => simp at hp
    all_goals simp [Part.same, s.buf.dropTicket_kept k]
  by_cases hlast : s.buf.lastTicket k
  · rw [s.releaseTicket_of_last k cause hlast]
    exact State.changesOnly_mono
      (State.changesOnly_trans (State.changesOnly_trans hdrop (State.changesOnly_freeDesc _ _))
        (State.changesOnly_countEngine _ _)) (by simp)
  · rw [s.releaseTicket_of_not_last k cause hlast]
    exact State.changesOnly_mono hdrop (by simp)

/-! ### What releases leave of the descriptors (R46) -/

/-- A descriptor once `n` of its tickets are released (R45, R46). -/
def Descriptor.dropped (v : Descriptor) (n : Nat) : Descriptor :=
  if v.state = .queued ∧ 1 ≤ n ∧ v.tickets ≤ n then v.freed else { v with tickets := v.tickets - n }

/-- How many tickets of a list name a descriptor. -/
def Buffer.naming (b : Buffer) (ks : List Nat) (d : Nat) : Nat := (ks.filter fun k => (b.ticket k).desc = d).length

theorem Buffer.afterReleases_eq (b : Buffer) (ks : List Nat) (d : Nat) :
    b.afterReleases ks d = (b.desc d).dropped (b.naming ks d) := rfl

theorem Descriptor.dropped_zero (v : Descriptor) : v.dropped 0 = v := if_neg fun h => absurd h.2.1 (by decide)

/-- Tickets released one after another are released together. -/
theorem Descriptor.dropped_dropped (v : Descriptor) (n : Nat) : (v.dropped 1).dropped n = v.dropped (n + 1) := by
  by_cases hlast : v.state = .queued ∧ 1 ≤ 1 ∧ v.tickets ≤ 1
  · have hall : v.state = .queued ∧ 1 ≤ n + 1 ∧ v.tickets ≤ n + 1 := ⟨hlast.1, by omega, by omega⟩
    have hfree : ¬(v.freed.state = .queued ∧ 1 ≤ n ∧ v.freed.tickets ≤ n) := fun h => nomatch h.1
    rw [dropped.eq_1 v 1, if_pos hlast, dropped.eq_1 v (n + 1), if_pos hall, dropped, if_neg hfree, freed, Nat.zero_sub]
  · rw [dropped.eq_1 v 1, if_neg hlast, dropped, dropped]
    have hiff : (v.state = .queued ∧ 1 ≤ n ∧ v.tickets - 1 ≤ n) ↔ (v.state = .queued ∧ 1 ≤ n + 1 ∧ v.tickets ≤ n + 1) := by
      constructor
      · rintro ⟨hqueued, hn, htickets⟩
        exact ⟨hqueued, by omega, by omega⟩
      · rintro ⟨hqueued, -, htickets⟩
        have hmore : ¬v.tickets ≤ 1 := fun h => hlast ⟨hqueued, Nat.le_refl 1, h⟩
        exact ⟨hqueued, by omega, by omega⟩
    exact if_congr hiff rfl (by rw [Nat.sub_sub, Nat.add_comm 1 n])

theorem Buffer.afterReleases_nil (b : Buffer) (d : Nat) : b.afterReleases [] d = b.desc d := Descriptor.dropped_zero _

theorem Buffer.naming_cons (b : Buffer) (k : Nat) (ks : List Nat) (d : Nat) :
    b.naming (k :: ks) d = b.naming ks d + if (b.ticket k).desc = d then 1 else 0 := by
  by_cases hd : (b.ticket k).desc = d <;> simp [Buffer.naming, hd]

/-- The descriptors after one release. -/
theorem State.releaseTicket_desc (s : State) (k : Nat) (cause : Cause) (d : Nat) :
    (s.releaseTicket k cause).buf.desc d =
      if (s.buf.ticket k).desc = d then (s.buf.desc d).dropped 1 else s.buf.desc d := by
  by_cases hlast : s.buf.lastTicket k
  · obtain ⟨hqueued, htickets⟩ := hlast
    rw [s.releaseTicket_of_last k cause ⟨hqueued, htickets⟩]
    refine (Buffer.freeDesc_desc (s.buf.dropTicket k) (s.buf.ticket k).desc d).trans ?_
    by_cases hd : (s.buf.ticket k).desc = d
    · subst hd
      rw [if_pos rfl, if_pos rfl, s.buf.dropTicket_desc_same k, Descriptor.dropped,
        if_pos ⟨hqueued, Nat.le_refl 1, htickets⟩]
      rfl
    · rw [if_neg (Ne.symm hd), if_neg hd, s.buf.dropTicket_desc k d, if_neg (Ne.symm hd)]
  · rw [s.releaseTicket_of_not_last k cause hlast]
    by_cases hd : (s.buf.ticket k).desc = d
    · subst hd
      rw [if_pos rfl, Descriptor.dropped, if_neg fun h => hlast ⟨h.1, h.2.2⟩]
      exact s.buf.dropTicket_desc_same k
    · rw [if_neg hd]
      exact (s.buf.dropTicket_desc k d).trans (if_neg (Ne.symm hd))

/-- A release leaves every ticket naming the descriptor it named. -/
theorem State.releaseTicket_ticket_desc (s : State) (k : Nat) (cause : Cause) (n : Nat) :
    ((s.releaseTicket k cause).buf.ticket n).desc = (s.buf.ticket n).desc := by
  rw [s.releaseTicket_ticket k cause n]
  split_ifs with hn
  · rw [hn]
  · rfl

/-- Releasing `k` and then `ks` is releasing them all. -/
theorem State.afterReleases_releaseTicket (s : State) (k : Nat) (cause : Cause) (ks : List Nat) (d : Nat) :
    (s.releaseTicket k cause).buf.afterReleases ks d = s.buf.afterReleases (k :: ks) d := by
  have hnaming : (s.releaseTicket k cause).buf.naming ks d = s.buf.naming ks d := by
    simp only [Buffer.naming, s.releaseTicket_ticket_desc k cause]
  rw [Buffer.afterReleases_eq, Buffer.afterReleases_eq, hnaming, s.buf.naming_cons k ks d, s.releaseTicket_desc k cause d]
  split_ifs with hd
  · exact (s.buf.desc d).dropped_dropped _
  · rfl

/-- One release, as the statements speak of it. -/
theorem State.releaseTicket_afterReleases (s : State) (k : Nat) (cause : Cause) (d : Nat) :
    (s.releaseTicket k cause).buf.desc d = s.buf.afterReleases [k] d := by
  rw [← s.afterReleases_releaseTicket k cause [] d, Buffer.afterReleases_nil]

/-- A release counts nothing on a line. -/
theorem State.releaseTicket_count (s : State) (k : Nat) (cause : Cause) :
    (s.releaseTicket k cause).count.rx = s.count.rx ∧ (s.releaseTicket k cause).count.tx = s.count.tx := by
  by_cases hlast : s.buf.lastTicket k
  · rw [s.releaseTicket_of_last k cause hlast]
    exact ⟨rfl, rfl⟩
  · rw [s.releaseTicket_of_not_last k cause hlast]
    exact ⟨rfl, rfl⟩

/-! ### A sequence of releases -/

/-- The tickets of a list released with cause flush, one after another (R116). -/
def State.releaseAll (s : State) (ks : List Nat) : State := ks.foldl (fun s k => s.releaseTicket k .flush) s

theorem State.flushesTickets_releaseAll (s : State) (ks : List Nat) : s.flushesTickets (s.releaseAll ks) ks := by
  induction ks generalizing s with
  | nil => rfl
  | cons k ks ih =>
    exact ⟨s.releaseTicket k .flush, s.releases_releaseTicket k .flush false (by simp),
      s.changesOnly_releaseTicket k .flush, ih _⟩

theorem State.releaseAll_desc (s : State) (ks : List Nat) (d : Nat) :
    (s.releaseAll ks).buf.desc d = s.buf.afterReleases ks d := by
  induction ks generalizing s with
  | nil => exact (s.buf.afterReleases_nil d).symm
  | cons k ks ih => exact (ih _).trans (s.afterReleases_releaseTicket k .flush ks d)

theorem State.releaseAll_freeTickets (s : State) (ks : List Nat) :
    (s.releaseAll ks).buf.freeTickets = s.buf.freeTickets ++ ks.filter fun k => decide (k < 190) := by
  induction ks generalizing s with
  | nil => simp [State.releaseAll]
  | cons k ks ih =>
    obtain ⟨-, hfree, -⟩ := s.releases_releaseTicket k .flush false (by simp)
    refine (ih _).trans ?_
    rw [hfree, List.append_assoc, List.filter_cons]
    by_cases hk : k < 190 <;> simp [hk]

theorem State.releaseAll_ticket (s : State) (ks : List Nat) (n : Nat) :
    (s.releaseAll ks).buf.ticket n = if n ∈ ks then { s.buf.ticket n with state := .free } else s.buf.ticket n := by
  induction ks generalizing s with
  | nil => simp [State.releaseAll]
  | cons k ks ih =>
    refine (ih _).trans ?_
    rw [s.releaseTicket_ticket k .flush n]
    by_cases hn : n = k
    · subst hn
      simp
    · simp [hn]

theorem State.changesOnly_releaseAll (s : State) (ks : List Nat) :
    s.changesOnly (s.releaseAll ks) [.tickets, .pools, .descs, .emitter, .engineCount] := by
  induction ks generalizing s with
  | nil => exact s.changesOnly_refl _
  | cons k ks ih =>
    exact State.changesOnly_mono (State.changesOnly_trans (s.changesOnly_releaseTicket k .flush) (ih _)) (by simp)

end Sys2Proof.Machine

/-! PROOF. The transmitters (section 6.3): selections, and the end of the block in transmission. -/

namespace Sys2Proof.Machine

/-! ### The end of a unit (R179) -/

theorem LineOut.bit_last (out : LineOut) : out.bit (8 * out.octets.length - 1) = out.lastLevel := by
  cases out with
  | heldHigh => rfl
  | pair syn1 syn2 => simp [LineOut.bit, LineOut.octets, LineOut.lastLevel]
  | block os =>
    rcases List.eq_nil_or_concat os with rfl | ⟨init, o, rfl⟩
    · simp [LineOut.bit, LineOut.lastLevel]
    · have hindex : (8 * (init.length + 1) - 1) / 8 = init.length := by omega
      have hbit : (8 * (init.length + 1) - 1) % 8 = 7 := by omega
      simp [LineOut.bit, LineOut.octets, LineOut.lastLevel, hindex, hbit]

theorem Egress.unitDone_eq (e : Egress) : e.unitDone = e.sentOut := by
  rw [Egress.unitDone, LineOut.bit_last, Egress.sentOut]

theorem State.modTx_congr (s : State) (x : Line) {f g : Egress → Egress} (h : f (s.tx.get x) = g (s.tx.get x)) :
    s.modTx x f = s.modTx x g := by
  rw [State.modTx, State.modTx, PerLine.modify, PerLine.modify, h]

theorem State.modTx_modTx (s : State) (x : Line) (f g : Egress → Egress) :
    (s.modTx x f).modTx x g = s.modTx x fun e => g (f e) := by
  simp [State.modTx]

/-- A transmitter replaced, as the statements write it. -/
theorem State.modTx_eq_set (s : State) (x : Line) (f : Egress → Egress) :
    s.modTx x f = { s with tx := s.tx.set x (f (s.tx.get x)) } := rfl

/-! ### Selections (R107 to R109) -/

/-- A selection event reaches the selection loop with the pair sent. -/
theorem exec_of_selects {s : State} {i : Instr} {x : Line} {hold : Bool} {further : List Bool}
    (h : s.selects i x hold further) :
    exec i s = .next ((s.modTx x Egress.atSelection).select x hold further) := by
  obtain ⟨hquiet, ⟨rfl, hfill⟩ | ⟨rfl, hgap, hleft⟩⟩ := h
  · have hend : s.endFillPair x hold further = (s.modTx x Egress.unitDone).select x hold further := by
      simp only [State.endFillPair, hfill]
    have hselection : (s.tx.get x).unitDone = (s.tx.get x).atSelection := by
      rw [Egress.unitDone_eq, Egress.atSelection, hfill, if_neg (by decide)]
      rfl
    rw [exec, execFillPairEnd, s.running_of_quiet _ hquiet, hend, s.modTx_congr x hselection]
  · have hend : s.endGapPair x hold further = (s.modTx x Egress.atSelection).select x hold further := by
      have hselection : ({ (s.tx.get x).unitDone with gapLeft := (s.tx.get x).gapLeft - 1 } : Egress) =
          (s.tx.get x).atSelection := by
        rw [Egress.unitDone_eq, Egress.atSelection, hgap, if_pos rfl, Nat.sub_eq_zero_of_le hleft]
      have hlast : (((s.modTx x fun e => { e.unitDone with gapLeft := e.gapLeft - 1 }).tx.get x)).gapLeft = 0 := by
        simpa using Nat.sub_eq_zero_of_le hleft
      simp only [State.endGapPair, hgap]
      rw [if_pos hlast, s.modTx_congr x (g := Egress.atSelection) hselection]
    rw [exec, execGapPairEnd, s.running_of_quiet _ hquiet, hend]

theorem State.toFill_eq (s : State) (x : Line) :
    s.toFill x = s.modTx x fun e => { e with state := .fill, out := .pair (s.config.get x).syn1 (s.config.get x).syn2 } := by
  rw [State.toFill, State.beginPair, State.modTx_modTx]
  rfl

theorem State.selectLoop_of_hold (s : State) (x : Line) (n : Nat) (further : List Bool) :
    State.selectLoop x n true further s = s.toFill x := by
  cases n <;> rfl

/-- A selection that finds nothing to take. -/
theorem State.selectLoop_of_none (s : State) (x : Line) (n : Nat) (further : List Bool)
    (h : ((s.tx.get x).clearRun).choose = none) :
    State.selectLoop x (n + 1) false further s = (s.modTx x Egress.clearRun).toFill x := by
  have hchoose : ((s.modTx x Egress.clearRun).tx.get x).choose = none := by simpa using h
  simp only [State.selectLoop, Bool.false_eq_true, if_false, hchoose]

/-- The head a selection chooses leaves its queue (R108, R109). -/
def State.headOut (s : State) (x : Line) (c : QClass) : State := s.modTx x fun e => e.clearRun.dequeue c

/-- A selection that chooses a head: a stale one is dropped and a further selection follows, another is sent. -/
theorem State.selectLoop_of_some (s : State) (x : Line) (n : Nat) (further : List Bool) (c : QClass) (t : Nat)
    (h : ((s.tx.get x).clearRun).choose = some (c, t)) :
    State.selectLoop x (n + 1) false further s =
      if (s.headOut x c).stale x t then
        State.selectLoop x n (further.headD false) further.tail ((s.headOut x c).dropStale x t)
      else (s.headOut x c).startSending x c t := by
  have hchoose : ((s.modTx x Egress.clearRun).tx.get x).choose = some (c, t) := by simpa using h
  have hhold : (nextHold false further).1 = further.headD false ∧ (nextHold false further).2 = further.tail := by
    cases further <;> exact ⟨rfl, rfl⟩
  simp only [State.selectLoop, Bool.false_eq_true, if_false, hchoose, hhold, State.modTx_modTx, State.headOut]
  rfl

theorem Egress.clearRun_choose_none {e : Egress} (hu : e.urgent = []) (hn : e.normal = []) :
    e.clearRun.choose = none := by
  simp [Egress.clearRun, hn, Egress.choose, hu]

/-- The head that R108 gives is the one the model chooses, and the run count after it is sent. -/
theorem Egress.choose_of_heads {e : Egress} {c : QClass} {t run : Nat} (h : e.heads c t run) :
    e.clearRun.choose = some (c, t) ∧ runAfter e.clearRun.run c = run := by
  rcases h with ⟨rfl, ⟨rest, hu⟩, ⟨hn, rfl⟩ | ⟨hn, hrun, rfl⟩⟩ | ⟨rfl, ⟨rest, hn⟩, hother, rfl⟩
  · simp [Egress.clearRun, hn, Egress.choose, hu, runAfter]
  · obtain ⟨n, ns, hcons⟩ := List.exists_cons_of_ne_nil hn
    simp [Egress.clearRun, hcons, Egress.choose, hu, runAfter, hrun]
  · rcases hother with hu | hrun
    · simp [Egress.clearRun, hn, Egress.choose, hu, runAfter]
    · cases hu : e.urgent with
      | nil => simp [Egress.clearRun, hn, Egress.choose, hu, runAfter]
      | cons u us => simp [Egress.clearRun, hn, Egress.choose, hu, runAfter, Nat.not_lt.2 hrun]

/-- Settles O30: a hold, or empty queues, make the selection begin a fill pair. -/
theorem pairsAreSentWhileNothingIsTaken : Obligations.PairsAreSentWhileNothingIsTaken := by
  unfold Obligations.PairsAreSentWhileNothingIsTaken
  intro s x hold further
  refine ⟨fun i hselects hhold => ?_, fun i hselects hhold hu hn => ?_, fun hquiet hgap hleft => ?_,
    fun hquiet hgap => ?_, fun hquiet hfill => ?_⟩
  · rw [exec_of_selects hselects, hhold, State.select, State.selectLoop_of_hold, State.toFill_eq, State.modTx_modTx,
      State.modTx_eq_set]
    rfl
  · have hnone : ((s.modTx x Egress.atSelection).tx.get x).clearRun.choose = none := by
      simpa using Egress.clearRun_choose_none (e := (s.tx.get x).atSelection) hu hn
    have hrun : (s.tx.get x).atSelection.clearRun = { (s.tx.get x).atSelection with run := 0 } := if_pos hn
    rw [exec_of_selects hselects, hhold, State.select, State.selectLoop_of_none _ _ _ _ hnone, State.toFill_eq,
      State.modTx_modTx, State.modTx_modTx, State.modTx_eq_set]
    dsimp only
    rw [hrun]
    rfl
  · have hmore : ¬((s.modTx x fun e => { e.unitDone with gapLeft := e.gapLeft - 1 }).tx.get x).gapLeft = 0 := by
      simpa using Nat.sub_ne_zero_of_lt hleft
    rw [exec, execGapPairEnd, s.running_of_quiet _ hquiet]
    simp only [State.endGapPair, hgap]
    rw [if_neg hmore, State.beginPair, State.modTx_modTx, State.modTx_eq_set, ← Egress.unitDone_eq]
    rfl
  · rw [exec, execGapPairEnd, s.running_of_quiet _ hquiet, State.endGapPair]
    cases hstate : (s.tx.get x).state with
    | gap => exact absurd hstate hgap
    | fill => rfl
    | sending => rfl
  · rw [exec, execFillPairEnd, s.running_of_quiet _ hquiet, State.endFillPair]
    cases hstate : (s.tx.get x).state with
    | fill => exact absurd hstate hfill
    | gap => rfl
    | sending => rfl

/-! ### A head that is taken, and one that is stale -/

theorem State.stale_iff (s : State) (x : Line) (t : Nat) :
    s.stale x t = true ↔ (s.config.get x).ageLimit ≠ 0 ∧ (s.config.get x).ageLimit < (s.buf.ticket t).age := by
  simp [State.stale]

theorem Egress.dequeue_eq (e : Egress) (c : QClass) :
    e.dequeue c =
      { e with
        urgent := if c = .urgent then e.urgent.tail else e.urgent
        normal := if c = .normal then e.normal.tail else e.normal } := by
  cases c <;> rfl

/-- The transmitter with the head of class `c` out of its queue. -/
theorem Egress.headOut_eq (e : Egress) (c : QClass) :
    e.clearRun.dequeue c =
      { e with
        urgent := if c = .urgent then e.urgent.tail else e.urgent
        normal := if c = .normal then e.normal.tail else e.normal
        run := if e.normal = [] then 0 else e.run } := by
  rw [Egress.dequeue_eq, Egress.clearRun]
  split_ifs <;> rfl

/-- The heads are the same at the selection as before the pair's end. -/
theorem Egress.heads_atSelection {e : Egress} {c : QClass} {t run : Nat} (h : e.heads c t run) :
    e.atSelection.heads c t run := h

/-- A selection event that chooses a head. -/
theorem exec_of_heads {s : State} {i : Instr} {x : Line} {further : List Bool} {c : QClass} {k run : Nat}
    (hselects : s.selects i x false further) (hheads : (s.tx.get x).heads c k run) :
    exec i s = .next
      (let u := (s.modTx x Egress.atSelection).headOut x c
       if u.stale x k then
         State.selectLoop x ((s.tx.get x).urgent.length + (s.tx.get x).normal.length) (further.headD false) further.tail
           (u.dropStale x k)
       else u.startSending x c k) := by
  have hchoose : ((s.modTx x Egress.atSelection).tx.get x).clearRun.choose = some (c, k) := by
    simpa using (Egress.choose_of_heads (Egress.heads_atSelection hheads)).1
  rw [exec_of_selects hselects, State.select, State.selectLoop_of_some _ _ _ _ _ _ hchoose]
  simp [Egress.atSelection, Egress.sentOut]

/-- Settles O31: the head that is not stale is what TDx carries next. -/
theorem selectionTakesAHead : Obligations.SelectionTakesAHead := by
  unfold Obligations.SelectionTakesAHead
  intro s i x further c k run hselects hheads hage
  have hfresh : ¬(((s.modTx x Egress.atSelection).headOut x c).stale x k = true) := by
    rw [State.stale_iff]
    rintro ⟨hlimit, hstale⟩
    exact hage.elim (fun h => hlimit h) fun h => absurd hstale (Nat.not_lt.2 h)
  have hrun := (Egress.choose_of_heads (Egress.heads_atSelection hheads)).2
  rw [exec_of_heads hselects hheads]
  dsimp only
  rw [if_neg hfresh, State.startSending, State.headOut]
  simp only [State.modTx, PerLine.modify_eq_set, PerLine.get_set_same, PerLine.set_set]
  have hout : ((s.tx.get x).atSelection.clearRun.dequeue c).run = (s.tx.get x).atSelection.clearRun.run := by
    cases c <;> rfl
  rw [hout, hrun, Egress.headOut_eq]
  rfl

/-- A chosen head is one of its queue, so its leaving shortens the two queues by one. -/
theorem Egress.length_of_heads {e : Egress} {c : QClass} {t run : Nat} (h : e.heads c t run) :
    e.urgent.length + e.normal.length =
      (e.clearRun.dequeue c).urgent.length + (e.clearRun.dequeue c).normal.length + 1 := by
  rw [Egress.headOut_eq]
  rcases h with ⟨rfl, ⟨rest, hu⟩, -⟩ | ⟨rfl, ⟨rest, hn⟩, -, -⟩
  · simp [hu]
    omega
  · simp [hn]
    omega

theorem State.changesOnly_dropStale (s : State) (x : Line) (t : Nat) :
    s.changesOnly (s.dropStale x t) [.tickets, .pools, .descs, .emitter, .txCount x, .engineCount] :=
  State.changesOnly_mono (State.changesOnly_trans (s.changesOnly_releaseTicket t .staleDrop) (State.changesOnly_countTx _ x _))
    (by simp)

/-- Settles O32: the stale head is released, and a further selection follows. -/
theorem staleHeadIsDropped : Obligations.StaleHeadIsDropped := by
  unfold Obligations.StaleHeadIsDropped
  intro s i x further c k run hselects hheads hlimit hage
  have hstale : ((s.modTx x Egress.atSelection).headOut x c).stale x k = true := by
    rw [State.stale_iff]
    exact ⟨hlimit, hage⟩
  have htx : (((s.modTx x Egress.atSelection).headOut x c).tx.get x) = (s.tx.get x).atSelection.clearRun.dequeue c := by
    simp [State.headOut]
  have hfuel : (s.tx.get x).urgent.length + (s.tx.get x).normal.length =
      ((s.tx.get x).atSelection.clearRun.dequeue c).urgent.length +
        ((s.tx.get x).atSelection.clearRun.dequeue c).normal.length + 1 :=
    Egress.length_of_heads (Egress.heads_atSelection hheads)
  refine ⟨((s.modTx x Egress.atSelection).headOut x c).dropStale x k, ?_, ?_, ?_, fun d => ?_, ?_, ?_⟩
  · rw [exec_of_heads hselects hheads]
    dsimp only
    rw [if_pos hstale, State.select]
    simp only [State.dropStale_kept, htx, hfuel]
  · simp only [State.dropStale_kept, htx]
    exact Egress.headOut_eq _ c
  · exact State.releases_releaseTicket ((s.modTx x Egress.atSelection).headOut x c) k .staleDrop false (by simp)
  · exact State.releaseTicket_afterReleases ((s.modTx x Egress.atSelection).headOut x c) k .staleDrop d
  · rw [State.dropStale, State.countTx_count, (State.releaseTicket_count _ k .staleDrop).2, PerLine.get_modify_same]
    rfl
  · exact State.changesOnly_mono
      (State.changesOnly_trans (State.changesOnly_trans (s.changesOnly_modTx x _) (State.changesOnly_modTx _ x _))
        (State.changesOnly_dropStale _ x k)) (by simp)

/-! ### No stale ticket is sent (R105, R109) -/

/-- What a change of a ticket keeps of every ticket. -/
theorem Buffer.kept_modTicket {α : Type} (g : Ticket → α) (b : Buffer) (t n : Nat) (f : Ticket → Ticket)
    (hf : ∀ v, g (f v) = g v) : g ((b.modTicket t f).ticket n) = g (b.ticket n) := by
  by_cases hn : n = t
  · subst hn
    rcases Nat.lt_or_ge n b.tickets.length with hlt | hge
    · rw [b.ticket_modTicket_same n f hlt, hf]
    · simp [Buffer.ticket, Buffer.modTicket, List.getD_eq_getElem?_getD, Nat.not_lt.2 hge]
  · rw [b.ticket_modTicket_other f hn]

theorem State.stale_startSending (s : State) (x : Line) (c : QClass) (t : Nat) :
    (s.startSending x c t).stale x t = s.stale x t := by
  have hage : ((s.startSending x c t).buf.ticket t).age = (s.buf.ticket t).age :=
    s.buf.kept_modTicket Ticket.age t t _ fun _ => rfl
  rw [State.stale, State.stale, hage]
  simp

/-- A block in transmission is of a ticket that is not stale. -/
def State.sendsFresh (s : State) (x : Line) : Prop :=
  ∀ k, (s.tx.get x).state = .sending → (s.tx.get x).ticket = some k → s.stale x k = false

theorem State.toFill_sendsFresh (s : State) (x : Line) : (s.toFill x).sendsFresh x := by
  intro k hsending
  rw [State.toFill_eq] at hsending
  simp at hsending

/-- What a selection leaves in transmission it has taken itself, and then it was not stale. -/
theorem State.selectLoop_sendsFresh (s : State) (x : Line) (n : Nat) (hold : Bool) (further : List Bool) :
    (State.selectLoop x n hold further s).sendsFresh x := by
  induction n generalizing s hold further with
  | zero => exact s.toFill_sendsFresh x
  | succ n ih =>
    cases hold with
    | true => rw [State.selectLoop_of_hold]; exact s.toFill_sendsFresh x
    | false =>
      cases hchoose : ((s.tx.get x).clearRun).choose with
      | none => rw [State.selectLoop_of_none s x n further hchoose]; exact State.toFill_sendsFresh _ x
      | some head =>
        obtain ⟨c, t⟩ := head
        rw [State.selectLoop_of_some s x n further c t hchoose]
        by_cases hstale : (s.headOut x c).stale x t = true
        · rw [if_pos hstale]
          exact ih _ _ _
        · rw [if_neg hstale]
          intro k _ hticket
          have hk : k = t := by simpa [State.startSending, eq_comm] using hticket
          subst hk
          exact ((s.headOut x c).stale_startSending x c k).trans (Bool.eq_false_of_not_eq_true hstale)

/-- Settles O33: what a selection puts in transmission was not stale when it was taken. -/
theorem noStaleTicketIsSent : Obligations.NoStaleTicketIsSent := by
  unfold Obligations.NoStaleTicketIsSent
  intro s t i x hold further k hselects hexec hsending hticket
  rw [exec_of_selects hselects] at hexec
  obtain rfl := Host.Outcome.next.inj hexec
  have hfresh := State.selectLoop_sendsFresh _ x _ hold further k hsending hticket
  rw [← Bool.not_eq_true, State.stale_iff, not_and_or, not_not, Nat.not_lt] at hfresh
  simpa [State.select] using hfresh

/-! ### The end of the block in transmission (R114) -/

theorem State.endBlockSent_of_sending (s : State) (x : Line) (k : Nat) (hstate : (s.tx.get x).state = .sending)
    (hticket : (s.tx.get x).ticket = some k) :
    s.endBlockSent x =
      ((s.releaseTicket k .sent).countTx x fun c =>
        { c with
          blocksSent := satAdd c.blocksSent 1
          octetsSent := satAdd c.octetsSent ((s.buf.desc (s.buf.ticket k).desc).len + 6) }).modTx x fun e =>
        { e.sentOut with
          state := .gap, ticket := none, gapLeft := (s.config.get x).gapPairs
          out := .pair (s.config.get x).syn1 (s.config.get x).syn2 } := by
  simp only [State.endBlockSent, hstate, hticket, State.beginPair, State.modTx_modTx, State.modTx_kept, State.countTx_kept,
    State.releaseTicket_kept, Egress.unitDone_eq]

theorem State.changesOnly_endBlockSent_of_sending (s : State) (x : Line) (k : Nat)
    (hstate : (s.tx.get x).state = .sending) (hticket : (s.tx.get x).ticket = some k) :
    s.changesOnly (s.endBlockSent x) [.tx x, .tickets, .pools, .descs, .emitter, .txCount x, .engineCount] := by
  rw [s.endBlockSent_of_sending x k hstate hticket]
  exact State.changesOnly_mono
    (State.changesOnly_trans (State.changesOnly_trans (s.changesOnly_releaseTicket k .sent) (State.changesOnly_countTx _ x _))
      (State.changesOnly_modTx _ x _)) (by simp)

/-- A frees statement speaks of the buffer and the emitter alone. -/
theorem State.releases_of_same {s t u : State} {k : Nat} {sent : Bool} (h : s.releases t k sent) (hbuf : u.buf = t.buf)
    (hemitter : u.emitter = t.emitter) (hcount : u.count.engine = t.count.engine) : s.releases u k sent := by
  simpa only [State.releases, State.frees, State.recovered, hbuf, hemitter, hcount] using h

/-- What the end of a block leaves in the buffer and the emitter is what the release of its ticket leaves. -/
theorem State.endBlockSent_parts (s : State) (x : Line) (k : Nat) (hstate : (s.tx.get x).state = .sending)
    (hticket : (s.tx.get x).ticket = some k) :
    (s.endBlockSent x).buf = (s.releaseTicket k .sent).buf ∧
      (s.endBlockSent x).emitter = (s.releaseTicket k .sent).emitter ∧
      (s.endBlockSent x).count.engine = (s.releaseTicket k .sent).count.engine := by
  rw [s.endBlockSent_of_sending x k hstate hticket]
  exact ⟨rfl, rfl, rfl⟩

/-- The freeing of a descriptor by its last ticket: its chain and its number at the tail of their lists. -/
theorem State.frees_general {s t : State} {d : Nat} (h : s.frees t d true) (hd : d < 126) :
    t.buf.freeCells = s.buf.freeCells ++ (s.buf.desc d).chain ∧ t.buf.freeDescs = s.buf.freeDescs ++ [d] ∧
      t.buf.freePart = s.buf.freePart ∧ t.emitter = s.emitter.hear (s.buf.freedEvents d) := by
  obtain ⟨fcells, fdescs, fpart, -, -, -, frecovered, -⟩ := h
  have hnot : ¬126 ≤ d := by omega
  simp only [hd, hnot, and_true, and_false, if_true, if_false, List.append_nil] at fcells fdescs fpart
  refine ⟨fcells, fdescs, fpart, frecovered.trans ?_⟩
  rw [fcells, List.length_append, Buffer.freedEvents]
  split_ifs
  · rfl
  · exact (Emitter.hear_nil _).symm

theorem State.frees_partition {s t : State} {d : Nat} (h : s.frees t d true) (hd : 126 ≤ d) :
    t.buf.freePart = s.buf.freePart ++ (s.buf.desc d).chain ∧ t.buf.freeCells = s.buf.freeCells ∧
      t.buf.freeDescs = s.buf.freeDescs ∧ t.emitter = s.emitter := by
  obtain ⟨fcells, fdescs, fpart, -, -, -, frecovered, -⟩ := h
  have hnot : ¬d < 126 := by omega
  simp only [hd, hnot, and_true, and_false, if_true, if_false, List.append_nil] at fcells fdescs fpart
  refine ⟨fpart, fcells, fdescs, frecovered.trans (if_neg ?_)⟩
  rw [fcells]
  omega

/-- Settles O34: one release with cause sent, and the counters of the line. -/
theorem blockSentReleasesItsTicket : Obligations.BlockSentReleasesItsTicket := by
  unfold Obligations.BlockSentReleasesItsTicket
  intro s x k d hquiet hstate hticket hk hdesc hlength hd hqueued htickets
  subst hdesc
  have hexec : exec (.blockSent x) s = .next (s.endBlockSent x) := by
    rw [exec, execBlockSent, s.running_of_quiet _ hquiet]
  obtain ⟨hbuf, hemitter, hengine⟩ := s.endBlockSent_parts x k hstate hticket
  have hreleases := s.releases_releaseTicket k .sent true (by simp)
  refine ⟨s.endBlockSent x, hexec, ?tx, ?txCount, State.releases_of_same hreleases hbuf hemitter hengine, ?_⟩
  case tx => simp [s.endBlockSent_of_sending x k hstate hticket]
  case txCount => simp [s.endBlockSent_of_sending x k hstate hticket, satAdd, s.releaseTicket_count k .sent]
  rw [hbuf, hemitter]
  refine ⟨?state, fun m hm => ?_, ?free, fun m hm => ?_, fun hmore => ?more, fun hone => ?last, ?frame⟩
  case state => rw [s.releaseTicket_ticket k .sent k, if_pos rfl]
  case free =>
    rw [(s.releaseTicket_tickets k .sent).2, s.buf.dropTicket_freeTickets k]
    split_ifs
    · rfl
    · exact List.append_nil _
  · rw [s.releaseTicket_ticket k .sent m, if_neg hm]
  · rw [s.releaseTicket_desc k .sent m, if_neg (Ne.symm hm)]
  case more =>
    have hnot : ¬s.buf.lastTicket k := fun h => absurd h.2 (by omega)
    obtain ⟨-, hcells, hpart, hdescs, -⟩ := s.buf.dropTicket_kept k
    rw [s.releaseTicket_of_not_last k .sent hnot]
    exact ⟨s.buf.dropTicket_desc_same k, hcells, hpart, hdescs, rfl⟩
  case last =>
    have hlast : s.buf.lastTicket k := ⟨hqueued, by omega⟩
    have hfrees := s.frees_releaseTicket_of_last k .sent hlast
    have ⟨_, _, _, hfreed, _⟩ := hfrees
    rw [hfreed rfl]
    exact ⟨rfl, rfl, rfl, State.frees_general hfrees, State.frees_partition hfrees⟩
  case frame =>
    refine State.changesOnly_of_same (p := .engineCount)
      (State.changesOnly_mono (s.changesOnly_endBlockSent_of_sending x k hstate hticket) (by simp)) ?_
    obtain ⟨-, -, -, -, hcount⟩ := hreleases
    exact hengine.trans (hcount.trans (if_neg fun h => absurd h.2.2 (by decide)))

end Sys2Proof.Machine

/-! PROOF. Flushes (R116, R138, R163): QUEUE-FLUSH, and FLUSH-ALL with its parts. -/

namespace Sys2Proof.Machine

/-! ### A sequence of releases leaves the transmitters and their counters -/

theorem State.releaseTicket_modTx (s : State) (x : Line) (f : Egress → Egress) (k : Nat) (cause : Cause) :
    (s.modTx x f).releaseTicket k cause = (s.releaseTicket k cause).modTx x f := by
  by_cases hlast : s.buf.lastTicket k
  · rw [s.releaseTicket_of_last k cause hlast, (s.modTx x f).releaseTicket_of_last k cause hlast]
    rfl
  · rw [s.releaseTicket_of_not_last k cause hlast, (s.modTx x f).releaseTicket_of_not_last k cause hlast]
    rfl

theorem State.releaseTicket_countTx (s : State) (x : Line) (f : TxCounters → TxCounters) (k : Nat) (cause : Cause) :
    (s.countTx x f).releaseTicket k cause = (s.releaseTicket k cause).countTx x f := by
  by_cases hlast : s.buf.lastTicket k
  · rw [s.releaseTicket_of_last k cause hlast, (s.countTx x f).releaseTicket_of_last k cause hlast]
    rfl
  · rw [s.releaseTicket_of_not_last k cause hlast, (s.countTx x f).releaseTicket_of_not_last k cause hlast]
    rfl

theorem State.releaseAll_cons (s : State) (k : Nat) (ks : List Nat) :
    s.releaseAll (k :: ks) = (s.releaseTicket k .flush).releaseAll ks := rfl

theorem State.releaseAll_append (s : State) (ks js : List Nat) :
    s.releaseAll (ks ++ js) = (s.releaseAll ks).releaseAll js :=
  List.foldl_append ..

theorem State.releaseAll_modTx (s : State) (x : Line) (f : Egress → Egress) (ks : List Nat) :
    (s.modTx x f).releaseAll ks = (s.releaseAll ks).modTx x f := by
  induction ks generalizing s with
  | nil => rfl
  | cons k ks ih => rw [State.releaseAll_cons, State.releaseTicket_modTx, ih, State.releaseAll_cons]

theorem State.releaseAll_countTx (s : State) (x : Line) (f : TxCounters → TxCounters) (ks : List Nat) :
    (s.countTx x f).releaseAll ks = (s.releaseAll ks).countTx x f := by
  induction ks generalizing s with
  | nil => rfl
  | cons k ks ih => rw [State.releaseAll_cons, State.releaseTicket_countTx, ih, State.releaseAll_cons]

@[simp] theorem State.releaseAll_kept (s : State) (ks : List Nat) :
    (s.releaseAll ks).tx = s.tx ∧ (s.releaseAll ks).count.tx = s.count.tx ∧ (s.releaseAll ks).rx = s.rx ∧
      (s.releaseAll ks).engine = s.engine ∧ (s.releaseAll ks).config = s.config ∧ (s.releaseAll ks).routes = s.routes := by
  induction ks generalizing s with
  | nil => exact ⟨rfl, rfl, rfl, rfl, rfl, rfl⟩
  | cons k ks ih => simp [State.releaseAll_cons, ih, s.releaseTicket_count k .flush]

/-! ### One queue, and both (R116) -/

/-- The transmitter with the queues of these classes empty. -/
def Egress.without (e : Egress) (urgent normal : Bool) : Egress :=
  { e with urgent := if urgent then [] else e.urgent, normal := if normal then [] else e.normal }

/-- `n` tickets flushed (R116). -/
def TxCounters.flush (n : Nat) (c : TxCounters) : TxCounters := { c with flushed := min (c.flushed + n) 4294967295 }

theorem TxCounters.flush_flush (n m : Nat) (c : TxCounters) : (c.flush n).flush m = c.flush (n + m) := by
  have hmin : min (min (c.flushed + n) 4294967295 + m) 4294967295 = min (c.flushed + (n + m)) 4294967295 := by omega
  rw [TxCounters.flush, TxCounters.flush, TxCounters.flush, hmin]

theorem State.countTx_countTx (s : State) (x : Line) (f g : TxCounters → TxCounters) :
    (s.countTx x f).countTx x g = s.countTx x fun c => g (f c) := by
  simp [State.countTx]

/-- Two rounds of a transmitter's change and its counters' change are one of each. -/
theorem State.modTx_countTx_modTx_countTx (s : State) (x : Line) (f g : Egress → Egress) (h k : TxCounters → TxCounters) :
    (((s.modTx x f).countTx x h).modTx x g).countTx x k = (s.modTx x fun e => g (f e)).countTx x fun c => k (h c) := by
  have hswap : ((s.modTx x f).countTx x h).modTx x g = ((s.modTx x f).modTx x g).countTx x h := rfl
  rw [hswap, State.modTx_modTx, State.countTx_countTx]

/-- A flush of one class is the release of its tickets, with its queue emptied and its counter raised. -/
theorem State.flushClasses_one (s : State) (x : Line) (c : QClass) :
    s.flushClasses x [c] =
      ((s.releaseAll ((s.tx.get x).queue c)).modTx x fun e => e.without (c = .urgent) (c = .normal)).countTx x
        (TxCounters.flush ((s.tx.get x).queue c).length) := by
  rw [← State.releaseAll_modTx]
  cases c <;> rfl

/-- A flush of both classes releases URGENT first. -/
theorem State.flushClasses_both (s : State) (x : Line) :
    s.flushClasses x [.urgent, .normal] =
      ((s.releaseAll ((s.tx.get x).urgent ++ (s.tx.get x).normal)).modTx x fun e => e.without true true).countTx x
        (TxCounters.flush ((s.tx.get x).urgent.length + (s.tx.get x).normal.length)) := by
  have hsplit : s.flushClasses x [.urgent, .normal] = (s.flushClasses x [.urgent]).flushClasses x [.normal] := rfl
  have hnormal : ((s.flushClasses x [.urgent]).tx.get x).queue .normal = (s.tx.get x).normal := by
    simp [s.flushClasses_one x .urgent, Egress.queue, Egress.without]
  rw [hsplit, State.flushClasses_one, hnormal, s.flushClasses_one x .urgent, State.releaseAll_countTx,
    State.releaseAll_modTx, State.releaseAll_append]
  rw [State.modTx_countTx_modTx_countTx]
  simp only [TxCounters.flush_flush]
  rfl

/-! ### QUEUE-FLUSH (R149, R150) -/

theorem classSetOf_cases (o : Byte) :
    (classSetOf o = none ∧ (o.toNat = 0 ∨ 4 ≤ o.toNat)) ∨ (o = 1 ∧ classSetOf o = some [.urgent]) ∨
      (o = 2 ∧ classSetOf o = some [.normal]) ∨ (o = 3 ∧ classSetOf o = some [.urgent, .normal]) := by
  revert o
  decide +kernel

theorem exec_queueFlush_of_requested (s : State) (ss : Session) (h : RecordHead) (params : List Byte)
    (hreq : s.requested ss h 0x05 params) : exec .queueFlush s = .next ((respondQueueFlush ss params s).written h) :=
  congrArg Host.Outcome.next (s.atRecord_serve_of_requested ss h 0x05 params respondQueueFlush hreq)

/-- The queues of a class set, in the order in which they are flushed. -/
def Egress.flushed (e : Egress) (classes : List QClass) : List Nat := classes.flatMap e.queue

/-- A flush of the classes of a class set: one sequence of releases, the queues emptied, the counter raised. -/
theorem State.flushClasses_eq (s : State) (x : Line) (o : Byte) (classes : List QClass) (h : classSetOf o = some classes) :
    s.flushClasses x classes =
      ((s.releaseAll ((s.tx.get x).flushed classes)).modTx x fun e => e.without (o ≠ 2) (o ≠ 1)).countTx x
        (TxCounters.flush ((s.tx.get x).flushed classes).length) := by
  rcases classSetOf_cases o with ⟨hnone, -⟩ | ⟨rfl, hone⟩ | ⟨rfl, htwo⟩ | ⟨rfl, hboth⟩
  · rw [hnone] at h
    cases h
  · obtain rfl := Option.some.inj (hone.symm.trans h)
    rw [State.flushClasses_one]
    simp [Egress.flushed]
  · obtain rfl := Option.some.inj (htwo.symm.trans h)
    rw [State.flushClasses_one]
    simp [Egress.flushed]
  · obtain rfl := Option.some.inj (hboth.symm.trans h)
    rw [State.flushClasses_both]
    simp [Egress.flushed, Egress.queue]

theorem Egress.flushed_of_classSet {o : Byte} {classes : List QClass} (e : Egress) (h : classSetOf o = some classes) :
    e.flushed classes = (if o = 2 then [] else e.urgent) ++ (if o = 1 then [] else e.normal) := by
  rcases classSetOf_cases o with ⟨hnone, -⟩ | ⟨rfl, hone⟩ | ⟨rfl, htwo⟩ | ⟨rfl, hboth⟩
  · rw [hnone] at h
    cases h
  · obtain rfl := Option.some.inj (hone.symm.trans h)
    simp [Egress.flushed, Egress.queue]
  · obtain rfl := Option.some.inj (htwo.symm.trans h)
    simp [Egress.flushed, Egress.queue]
  · obtain rfl := Option.some.inj (hboth.symm.trans h)
    simp [Egress.flushed, Egress.queue]

/-- Settles O43: a class set is flushed as one sequence of releases. -/
theorem queueFlushReleasesTheTickets : Obligations.QueueFlushReleasesTheTickets := by
  unfold Obligations.QueueFlushReleasesTheTickets
  intro s ss h code set hreq
  rw [exec_queueFlush_of_requested s ss h _ hreq]
  refine ⟨fun hbad => ?_, fun x hx hlow hhigh => ?_⟩
  · have hnone : Line.ofCode code = none ∨ classSetOf set = none := by
      rcases hbad with hcode | hset
      · exact .inl (lineOfCode_eq_none code hcode)
      · rcases classSetOf_cases set with ⟨hnone, -⟩ | ⟨rfl, -⟩ | ⟨rfl, -⟩ | ⟨rfl, -⟩
        · exact .inr hnone
        all_goals exact absurd hset (by decide)
    rcases hnone with hcode | hset
    · simp [respondQueueFlush, hcode]
    · cases hcode : Line.ofCode code <;> simp [respondQueueFlush, hcode, hset]
  · subst hx
    obtain ⟨classes, hclasses⟩ : ∃ classes, classSetOf set = some classes := by
      rcases classSetOf_cases set with ⟨-, hset⟩ | ⟨-, hset⟩ | ⟨-, hset⟩ | ⟨-, hset⟩
      · omega
      all_goals exact ⟨_, hset⟩
    dsimp only
    rw [← Egress.flushed_of_classSet (s.tx.get x) hclasses]
    have hdata : (classes.map fun c => ((s.tx.get x).queue c).length).sum = ((s.tx.get x).flushed classes).length := by
      simp [Egress.flushed, List.length_flatMap]
    refine ⟨s.flushClasses x classes, ?_, ?_⟩
    · simp [respondQueueFlush, hclasses, hdata, octets2]
    · rw [s.flushClasses_eq x set classes hclasses]
      generalize (s.tx.get x).flushed classes = gone
      refine ⟨?_, ?_, fun k hk hlen => ?_, fun k hk => ?_, fun d => s.releaseAll_desc gone d, ?_,
        ⟨s.releaseAll gone, s.flushesTickets_releaseAll gone, rfl⟩, ?_⟩
      · simp [Egress.without]
      · exact s.releaseAll_freeTickets gone
      · exact congrArg Ticket.state ((s.releaseAll_ticket gone k).trans (if_pos hk))
      · exact (s.releaseAll_ticket gone k).trans (if_neg hk)
      · simp [TxCounters.flush]
      · exact State.changesOnly_mono
          (State.changesOnly_trans (State.changesOnly_trans (s.changesOnly_releaseAll gone) (State.changesOnly_modTx _ x _))
            (State.changesOnly_countTx _ x _)) (by simp)

end Sys2Proof.Machine

/-! PROOF. FLUSH-ALL and its parts (R163): each part at its own resource, and all of them in the order where none is
listed. -/

namespace Sys2Proof.Machine

/-! ### The parts do not read the plan of the FLUSH-ALL -/

/-- The part with other parts of a FLUSH-ALL still to make, and other lists of them to come. -/
def State.withPlan (s : State) (unflushed : List FlushPart) (flushes : List (List FlushPart)) : State :=
  { s with unflushed, flushes }

section

variable (s : State) (us : List FlushPart) (fl : List (List FlushPart))

theorem State.releaseBind_withPlan (d : Nat) : (s.withPlan us fl).releaseBind d = (s.releaseBind d).withPlan us fl := by
  have hdesc : (s.withPlan us fl).buf.desc d = s.buf.desc d := rfl
  simp only [State.releaseBind, hdesc]
  cases (s.buf.desc d).bound <;> rfl

theorem State.returnBlock_withPlan (x : Line) :
    (s.withPlan us fl).returnBlock x = (s.returnBlock x).withPlan us fl := by
  have hrx : (s.withPlan us fl).rx = s.rx := rfl
  simp only [State.returnBlock, hrx]
  cases (s.rx.get x).filling with
  | none => rfl
  | some d => exact congrArg (State.freeDesc · d) (s.releaseBind_withPlan us fl d)

theorem State.restart_withPlan (x : Line) : (s.withPlan us fl).restart x = (s.restart x).withPlan us fl := by
  have hrx : (s.withPlan us fl).rx = s.rx := rfl
  simp only [State.restart, hrx, State.toHunt_eq, State.returnBlock_withPlan]
  split <;> rfl

theorem State.releaseTicket_withPlan (k : Nat) (cause : Cause) :
    (s.withPlan us fl).releaseTicket k cause = (s.releaseTicket k cause).withPlan us fl := by
  by_cases hlast : s.buf.lastTicket k
  · rw [s.releaseTicket_of_last k cause hlast, (s.withPlan us fl).releaseTicket_of_last k cause hlast]
    rfl
  · rw [s.releaseTicket_of_not_last k cause hlast, (s.withPlan us fl).releaseTicket_of_not_last k cause hlast]
    rfl

theorem State.releaseAll_withPlan (ks : List Nat) :
    (s.withPlan us fl).releaseAll ks = (s.releaseAll ks).withPlan us fl := by
  induction ks generalizing s with
  | nil => rfl
  | cons k ks ih => rw [State.releaseAll_cons, State.releaseTicket_withPlan, ih, State.releaseAll_cons]

theorem State.discardQueue_withPlan : (s.withPlan us fl).discardQueue = s.discardQueue.withPlan us fl := by
  have hfree : ∀ (ds : List Nat) (s : State),
      ds.foldl (fun s d => s.freeDesc d) (s.withPlan us fl) = (ds.foldl (fun s d => s.freeDesc d) s).withPlan us fl := by
    intro ds
    induction ds with
    | nil => exact fun _ => rfl
    | cons d ds ih => exact fun s => ih (s.freeDesc d)
  exact hfree s.engine.queue { s with engine := { s.engine with queue := [] } }

theorem State.flushPart_withPlan (k : FlushPart) : (s.withPlan us fl).flushPart k = (s.flushPart k).withPlan us fl := by
  cases k with
  | queues x =>
    simp only [State.flushPart, State.flushClasses_both]
    rw [State.releaseAll_withPlan]
    rfl
  | receiver x => exact s.restart_withPlan us fl x
  | management => exact s.discardQueue_withPlan us fl

/-- Parts still to make, each once, are made one after another. -/
theorem State.foldMakePart_withPlan (ks : List FlushPart) :
    ks.foldl State.makePart (s.withPlan (ks ++ us) fl) = (ks.foldl State.flushPart s).withPlan us fl := by
  induction ks generalizing s with
  | nil => rfl
  | cons k ks ih =>
    have hmake : (s.withPlan (k :: ks ++ us) fl).makePart k = (s.flushPart k).withPlan (ks ++ us) fl := by
      have hmem : k ∈ (s.withPlan (k :: ks ++ us) fl).unflushed := by simp [State.withPlan]
      rw [State.makePart, if_pos hmem, ← State.flushPart_withPlan]
      simp [State.withPlan]
    rw [List.foldl_cons, hmake, ih (s.flushPart k)]
    rfl

end

/-! ### The queues of the three lines (R116) -/

/-- Every ticket of the six queues, in the order in which a FLUSH-ALL releases them. -/
def State.allQueued (s : State) : List Nat :=
  s.tx.a.urgent ++ s.tx.a.normal ++ s.tx.b.urgent ++ s.tx.b.normal ++ s.tx.l.urgent ++ s.tx.l.normal

/-- The tickets `s` held released, with the six queues empty and the flushed tickets counted on their lines. -/
def State.queuesFlushed (s : State) : State :=
  { s.releaseAll s.allQueued with
    tx := s.tx.map fun e => e.without true true
    count :=
      { (s.releaseAll s.allQueued).count with
        tx :=
          ⟨s.count.tx.a.flush (s.tx.a.urgent.length + s.tx.a.normal.length),
            s.count.tx.b.flush (s.tx.b.urgent.length + s.tx.b.normal.length),
            s.count.tx.l.flush (s.tx.l.urgent.length + s.tx.l.normal.length)⟩ } }

theorem State.changesOnly_queuesFlushed (s : State) (fl : List (List FlushPart)) :
    s.changesOnly (s.queuesFlushed.withPlan (s.releaseAll s.allQueued).unflushed fl)
      [.tickets, .pools, .descs, .emitter, .engineCount, .tx .a, .tx .b, .tx .l, .txCount .a, .txCount .b, .txCount .l,
        .flushes] := by
  intro p hp
  have hreleased := s.changesOnly_releaseAll s.allQueued p (by simp_all)
  cases p
  case tx y => cases y <;> simp at hp
  case txCount y => cases y <;> simp at hp
  case flushes => simp at hp
  all_goals exact hreleased

theorem State.flushQueues_eq (s : State) :
    [FlushPart.queues .a, .queues .b, .queues .l].foldl State.flushPart s = s.queuesFlushed := by
  have htx : ∀ (u : State) (x y : Line), y ≠ x → (u.flushClasses x [.urgent, .normal]).tx.get y = u.tx.get y := by
    intro u x y hy
    simp [u.flushClasses_both x, PerLine.get_modify_other _ _ hy]
  simp only [List.foldl_cons, List.foldl_nil, State.flushPart]
  rw [State.flushClasses_both _ .l, htx _ .b .l (by decide), htx _ .a .l (by decide), State.flushClasses_both _ .b,
    htx _ .a .b (by decide), State.flushClasses_both _ .a]
  simp only [State.releaseAll_countTx, State.releaseAll_modTx, ← State.releaseAll_append]
  have hall : s.allQueued =
      (s.tx.get .a).urgent ++ (s.tx.get .a).normal ++ ((s.tx.get .b).urgent ++ (s.tx.get .b).normal) ++
        ((s.tx.get .l).urgent ++ (s.tx.get .l).normal) := by
    simp only [State.allQueued, List.append_assoc]
    rfl
  rw [← hall, State.queuesFlushed]
  obtain ⟨hkeptTx, hkeptCount, -⟩ := s.releaseAll_kept s.allQueued
  simp only [State.modTx, State.countTx, hkeptTx, hkeptCount]
  rfl

/-! ### Restarts and discards -/

theorem State.restart_rx (s : State) (x y : Line) :
    (s.restart x).rx.get y = if y = x then (s.rx.get x).hunting else s.rx.get y := by
  obtain ⟨hsame, -⟩ := s.restart_parts x
  split_ifs with hy
  · rw [hy, hsame]
  · exact s.changesOnly_restart x (.rx y) (by simp [hy])

theorem State.restart_tickets (s : State) (x : Line) :
    (s.restart x).buf.tickets = s.buf.tickets ∧ (s.restart x).buf.freeTickets = s.buf.freeTickets := by
  obtain ⟨-, hbuf, -⟩ := s.restart_parts x
  rw [hbuf, State.returnBlock]
  split <;> simp [State.freeDesc, State.releaseBind_buf]

/-- The descriptors of a list freed, one after another (R138). -/
def State.freeAll (s : State) (ds : List Nat) : State := ds.foldl (fun s d => s.freeDesc d) s

theorem State.discards_freeAll (s : State) (ds : List Nat) : s.discards (s.freeAll ds) ds := by
  induction ds generalizing s with
  | nil => rfl
  | cons d ds ih =>
    exact ⟨s.freeDesc d, s.frees_freeDesc d, by simp [State.freeDesc],
      State.changesOnly_mono (s.changesOnly_freeDesc d) (by simp), ih _⟩

theorem State.changesOnly_freeAll (s : State) (ds : List Nat) :
    s.changesOnly (s.freeAll ds) [.pools, .descs, .emitter] := by
  induction ds generalizing s with
  | nil => exact s.changesOnly_refl _
  | cons d ds ih =>
    exact State.changesOnly_mono (State.changesOnly_trans (s.changesOnly_freeDesc d) (ih _)) (by simp)

theorem State.freeAll_freeTickets (s : State) (ds : List Nat) : (s.freeAll ds).buf.freeTickets = s.buf.freeTickets := by
  induction ds generalizing s with
  | nil => rfl
  | cons d ds ih => exact (ih _).trans (by simp [State.freeDesc])

/-- A discarded queue is the queue emptied and its blocks freed. -/
theorem State.discardQueue_eq (s : State) :
    s.discardQueue = State.freeAll { s with engine := { s.engine with queue := [] } } s.engine.queue := rfl

/-! ### One part (R163) -/

theorem State.makePart_of_unmade (s : State) (k : FlushPart) (h : k ∈ s.unflushed) :
    s.makePart k = State.flushPart { s with unflushed := s.unflushed.erase k } k := if_pos h

/-- A part is what its resource's own event is. -/
theorem State.makePart_parts (s : State) (k : FlushPart) (h : k ∈ s.unflushed) :
    let u := { s with unflushed := s.unflushed.erase k }
    (∀ x, k = .queues x →
      s.makePart k =
        { u.releaseAll ((s.tx.get x).urgent ++ (s.tx.get x).normal) with
          tx := s.tx.set x ((s.tx.get x).without true true)
          count :=
            { (u.releaseAll ((s.tx.get x).urgent ++ (s.tx.get x).normal)).count with
              tx := s.count.tx.set x
                ((s.count.tx.get x).flush ((s.tx.get x).urgent.length + (s.tx.get x).normal.length)) } }) ∧
      (∀ x, k = .receiver x → s.makePart k = u.restart x) ∧
      (k = .management → s.makePart k = u.discardQueue) := by
  intro u
  rw [s.makePart_of_unmade k h]
  refine ⟨?_, ?_, ?_⟩
  · rintro x rfl
    refine (u.flushClasses_both x).trans ?_
    simp only [State.modTx, State.countTx, State.releaseAll_kept]
    rfl
  · rintro x rfl
    rfl
  · rintro rfl
    rfl

/-! ### All the parts at the record's event -/

theorem State.flushGoesOn_of_made (s : State) (h : s.unflushed = []) : s.flushGoesOn = false := by
  rw [State.flushGoesOn, h]
  cases s.flushes.headD [] <;> simp

theorem State.flushGoesOn_iff (s : State) :
    s.flushGoesOn = true ↔ s.flushes.headD [] ≠ [] ∧ ∀ k ∈ s.flushes.headD [], k ∈ s.unflushed := by
  simp [State.flushGoesOn]

/-- A FLUSH-ALL record that reaches step 7 begins a FLUSH-ALL. -/
theorem exec_flushAll_of_requested (s : State) (ss : Session) (h : RecordHead) (params : List Byte)
    (hreq : s.requested ss h 0x0F params) : exec .flushAll s = .next (s.flushAll.answer h .ok []) := by
  have ⟨⟨hquiet, hflushed, _⟩, _⟩ := hreq
  have hserve := s.atRecord_serve_of_requested ss h 0x0F params respondFlushAll hreq
  rw [s.atRecord_of_quiet _ hquiet hflushed] at hserve
  rw [exec, execFlushAll, s.running_of_quiet _ hquiet, s.flushGoesOn_of_made hflushed, State.finishFlush, if_pos hflushed]
  exact congrArg Host.Outcome.next hserve

/-- The receivers restarted and the management queue discarded (R32, R138). -/
def State.restFlushed (s : State) : State := (((s.restart .a).restart .b).restart .l).discardQueue

theorem State.flushRest_eq (s : State) :
    [FlushPart.receiver .a, .receiver .b, .receiver .l, .management].foldl State.flushPart s = s.restFlushed := rfl

theorem State.restFlushed_withPlan (s : State) (us : List FlushPart) (fl : List (List FlushPart)) :
    (s.withPlan us fl).restFlushed = s.restFlushed.withPlan us fl := by
  simp only [State.restFlushed, State.restart_withPlan, State.discardQueue_withPlan]

/-- All seven parts in the order where none is listed (log 13): the queues, the receivers, the management queue. -/
theorem State.flushAll_of_all_listed (s : State) (h : s.flushes.headD FlushPart.all = FlushPart.all) :
    s.flushAll = (s.queuesFlushed.withPlan [] s.flushes.tail).restFlushed := by
  have hsplit : FlushPart.all =
      [.queues .a, .queues .b, .queues .l] ++ [.receiver .a, .receiver .b, .receiver .l, .management] :=
    rfl
  have hall : FlushPart.all.foldl State.flushPart s = s.queuesFlushed.restFlushed := by
    rw [hsplit, List.foldl_append, State.flushQueues_eq, State.flushRest_eq]
  have hmade : s.flushAll = FlushPart.all.foldl State.makePart (s.withPlan FlushPart.all s.flushes.tail) := by
    rw [State.flushAll, State.makeParts, h]
    rfl
  rw [hmade, State.restFlushed_withPlan, ← hall]
  exact s.foldMakePart_withPlan [] s.flushes.tail FlushPart.all

/-- What the restarts and the discard leave of the queues' flush. -/
theorem State.restFlushed_parts (s : State) :
    s.restFlushed.engine = { s.engine with queue := [] } ∧ s.restFlushed.tx = s.tx ∧ s.restFlushed.count = s.count ∧
      (∀ x, s.restFlushed.rx.get x = (s.rx.get x).hunting) ∧ s.restFlushed.buf.tickets = s.buf.tickets ∧
      s.restFlushed.buf.freeTickets = s.buf.freeTickets ∧
      s.changesOnly s.restFlushed [.rx .a, .rx .b, .rx .l, .pools, .descs, .slots, .engine, .emitter] := by
  have hchanges (t : State) : t.changesOnly t.discardQueue [.pools, .descs, .engine, .emitter] := by
    have hqueue : t.changesOnly { t with engine := { t.engine with queue := [] } } [.engine] := by
      intro p hp
      cases p
      case engine => simp at hp
      all_goals simp [Part.same]
    exact State.changesOnly_mono (State.changesOnly_trans hqueue (State.changesOnly_freeAll _ t.engine.queue)) (by simp)
  have hengine (t : State) : t.discardQueue.engine = { t.engine with queue := [] } := by
    rw [State.discardQueue_eq]
    exact (State.changesOnly_freeAll _ t.engine.queue) .engine (by simp)
  have htickets (t : State) : t.discardQueue.buf.tickets = t.buf.tickets := hchanges t .tickets (by simp)
  have hfree (t : State) : t.discardQueue.buf.freeTickets = t.buf.freeTickets := by
    rw [State.discardQueue_eq, State.freeAll_freeTickets]
  refine ⟨?_, ?_, ?_, fun x => ?_, ?_, ?_, ?_⟩
  · simp [State.restFlushed, hengine]
  · simp [State.restFlushed]
  · simp [State.restFlushed]
  · cases x <;> simp [State.restFlushed, State.restart_rx]
  · simp [State.restFlushed, htickets, State.restart_tickets]
  · simp [State.restFlushed, hfree, State.restart_tickets]
  · exact State.changesOnly_mono
      (State.changesOnly_trans
        (State.changesOnly_trans (State.changesOnly_trans (s.changesOnly_restart .a) (State.changesOnly_restart _ .b))
          (State.changesOnly_restart _ .l)) (hchanges _)) (by simp)

/-! ### The engine's own steps wait for the whole FLUSH-ALL (R127) -/

/-- The engine's own steps but FLUSH-ALL. -/
def engineSteps : List Instr :=
  [.malformedRecord, .walkTruncation, .skippedRecord, .unknownRequestRecord, .badLengthRecord, .sessionEnd, .identify,
    .lineSet, .lineGet, .lineRestart, .queueFlush, .defaultSet, .routeInsert, .routeUpdate, .routeDelete, .routeRead,
    .routeFind, .countersRead, .noticeSet, .selfSet, .reinit]

theorem exec_of_engineStep {c : Instr} (h : c ∈ engineSteps) :
    ∃ f : State → State, ∀ s : State, exec c s = .next (s.atRecord f) := by
  simp only [engineSteps, List.mem_cons, List.not_mem_nil, or_false] at h
  rcases h with rfl | rfl | rfl | rfl | rfl | rfl | rfl | rfl | rfl | rfl | rfl | rfl | rfl | rfl | rfl | rfl | rfl | rfl |
    rfl | rfl | rfl
  all_goals exact ⟨_, fun _ => rfl⟩

theorem State.settle_unflushed (s : State) (h : s.unflushed = []) : s.settle.unflushed = [] := by
  simp only [State.settle, State.drain_kept, State.takeIfDue, State.reinitIfDue]
  split_ifs <;> simp [h]

theorem State.finishFlush_of_made (s : State) (h : s.unflushed = []) : s.finishFlush = s := if_pos h

theorem diff_self_eq_nil (ks : List FlushPart) : ks.diff ks = [] := by
  induction ks with
  | nil => rfl
  | cons k ks ih => rw [List.diff_cons, List.erase_cons_head, ih]

/-- The parts left over, made one after another. -/
def State.partsMade (s : State) : State := s.unflushed.foldl State.makePart s

theorem State.partsMade_unflushed (s : State) : s.partsMade.unflushed = [] := by
  rw [State.partsMade, State.foldMakePart_unflushed]
  exact diff_self_eq_nil _

/-- An engine's own step makes the parts left over first, and settles, as that step alone would. -/
theorem exec_engineStep_of_unmade (s : State) (c : Instr) (h : c ∈ engineSteps) (hquiet : s.quiet = true)
    (hleft : s.unflushed ≠ []) : exec c s = exec c s.partsMade := by
  obtain ⟨f, hf⟩ := exec_of_engineStep h
  have hlow : s.partsMade.resetHigh = false := by
    rw [State.partsMade, (s.foldMakePart_kept s.unflushed).1]
    exact ((s.quiet_iff).1 hquiet).1
  have hmade : s.partsMade.settle.unflushed = [] := State.settle_unflushed _ s.partsMade_unflushed
  rw [hf, hf, State.atRecord, State.atRecord, s.running_of_quiet _ hquiet, s.partsMade.running_of_low _ hlow,
    State.finishFlush_of_made _ hmade, State.finishFlush, if_neg hleft]
  rfl

theorem exec_flushAll_of_unmade (s : State) (hquiet : s.quiet = true) (hleft : s.unflushed ≠ [])
    (hlist : s.flushes.headD [] = [] ∨ ∃ k ∈ s.flushes.headD [], k ∉ s.unflushed) :
    exec .flushAll s = exec .flushAll s.partsMade := by
  have hlow : s.partsMade.resetHigh = false := by
    rw [State.partsMade, (s.foldMakePart_kept s.unflushed).1]
    exact ((s.quiet_iff).1 hquiet).1
  have hmade : s.partsMade.settle.unflushed = [] := State.settle_unflushed _ s.partsMade_unflushed
  have hstop : ¬s.flushGoesOn = true := by
    rw [State.flushGoesOn_iff]
    rintro ⟨hne, hall⟩
    rcases hlist with hnil | ⟨k, hk, hnot⟩
    · exact hne hnil
    · exact hnot (hall k hk)
  rw [exec, exec, execFlushAll, execFlushAll, s.running_of_quiet _ hquiet, s.partsMade.running_of_low _ hlow, if_neg hstop,
    State.flushGoesOn_of_made _ hmade, State.finishFlush_of_made _ hmade, State.finishFlush, if_neg hleft]
  rfl

/-- Parts listed that are all still to be made are made. -/
theorem exec_flushAll_of_listed (s : State) (hquiet : s.quiet = true) (hne : s.flushes.headD [] ≠ [])
    (hall : ∀ k ∈ s.flushes.headD [], k ∈ s.unflushed) :
    exec .flushAll s = .next ((s.flushes.headD []).foldl State.makePart { s with flushes := s.flushes.tail }) := by
  have hgoes : s.flushGoesOn = true := s.flushGoesOn_iff.2 ⟨hne, hall⟩
  have hhead : s.flushes.headD FlushPart.all = s.flushes.headD [] := by
    cases hlist : s.flushes with
    | nil => exact absurd (congrArg (List.headD · []) hlist) hne
    | cons ks _ => rfl
  rw [exec, execFlushAll, s.running_of_quiet _ hquiet, if_pos hgoes, State.makeParts, hhead]

/-- Settles O44: the whole FLUSH-ALL, its parts one by one, and the engine's next step. -/
theorem flushAllEmptiesThePart : Obligations.FlushAllEmptiesThePart := by
  unfold Obligations.FlushAllEmptiesThePart
  refine ⟨fun s ss h params hreq => ⟨?record, fun hlist => ?whole⟩, fun s k => ⟨?made, fun hk => ?part⟩,
    fun s hquiet => ⟨fun hne hall => ?listed, fun c hc hleft hother => ?left⟩⟩
  case record => exact exec_flushAll_of_requested s ss h params hreq
  case whole =>
    have ⟨⟨_, hflushed, _⟩, _⟩ := hreq
    let f := s.releaseAll s.allQueued
    have hplan : f.unflushed = [] := (s.changesOnly_releaseAll s.allQueued .unflushed (by simp)).trans hflushed
    have hstart : s.queuesFlushed.withPlan f.unflushed s.flushes.tail = s.queuesFlushed.withPlan [] s.flushes.tail := by
      rw [hplan]
    have hexec := exec_flushAll_of_requested s ss h params hreq
    rw [s.flushAll_of_all_listed hlist, ← hstart] at hexec
    let start := s.queuesFlushed.withPlan f.unflushed s.flushes.tail
    obtain ⟨hengine, htx, hcount, hrx, htickets, hfree, hchanges⟩ := start.restFlushed_parts
    obtain ⟨-, -, hkeptRx, hkeptEngine, -⟩ := s.releaseAll_kept s.allQueued
    have hbefore := s.changesOnly_queuesFlushed s.flushes.tail
    refine ⟨f, start.restart .a, (start.restart .a).restart .b, ((start.restart .a).restart .b).restart .l,
      start.restFlushed, hexec, s.flushesTickets_releaseAll _, s.releaseAll_freeTickets _, s.releaseAll_ticket _,
      s.releaseAll_desc _, start.restarted_restart .a, State.restarted_restart _ .b, State.restarted_restart _ .l, ?_, ?_,
      fun x => ?_, htickets, hfree, ?_, ?_⟩
    · have hqueue : (((start.restart .a).restart .b).restart .l).engine.queue = s.engine.queue := by
        simp only [State.restart_kept]
        exact congrArg Engine.queue hkeptEngine
      rw [State.restFlushed, State.discardQueue_eq, hqueue]
      exact State.discards_freeAll _ _
    · rw [hengine]
      exact congrArg (fun e => ({ e with queue := [] } : Engine)) hkeptEngine
    · refine ⟨?_, (hrx x).trans (congrArg (fun rx => (PerLine.get rx x).hunting) hkeptRx), ?_⟩
      · rw [htx]
        cases x <;> rfl
      · rw [hcount]
        cases x <;> rfl
    · rw [hcount]
      rfl
    · exact State.changesOnly_mono (State.changesOnly_trans hbefore hchanges) (by decide)
  case made => exact s.makePart_of_made k
  case part =>
    obtain ⟨hqueues, hreceiver, hmanagement⟩ := s.makePart_parts k hk
    refine ⟨fun x hx => ⟨_, State.flushesTickets_releaseAll _ _, hqueues x hx⟩, fun x hx => ?_, fun hx => ?_⟩
    · rw [hreceiver x hx]
      exact State.restarted_restart _ x
    · rw [hmanagement hx]
      exact State.discards_freeAll _ s.engine.queue
  case listed => exact exec_flushAll_of_listed s hquiet hne hall
  case left =>
    have hmake : exec .flushAll { s with flushes := s.unflushed :: s.flushes } = .next s.partsMade :=
      exec_flushAll_of_listed { s with flushes := s.unflushed :: s.flushes } hquiet hleft fun _ hk => hk
    refine ⟨s.partsMade, hmake, ?_⟩
    by_cases hall : c = .flushAll
    · rw [hall]
      exact exec_flushAll_of_unmade s hquiet hleft (hother hall)
    · exact exec_engineStep_of_unmade s c (by simpa [engineSteps, hall] using hc) hquiet hleft

end Sys2Proof.Machine

/-! PROOF. What does not depend on the receivers: the Notice Emitter, the gaps, and the dispatch of a block (chapters 5, 7
and 9). A block's dispatch is so the same whether its receiver is set to GAP before it or after. -/

namespace Sys2Proof.Machine

/-! ### The Notice Emitter reads no receiver and no list of clock edges or ticks -/

/-- The part with other receivers and other lists of edges and ticks to come. -/
def State.withRxClocks (s : State) (rx : PerLine Receiver) (edges : List Edge) (ticks : List (List TickTaker)) :
    State :=
  { s with rx, edges, ticks }

/-- The part with other receivers. -/
def State.withRx (s : State) (rx : PerLine Receiver) : State := { s with rx }

/-- The part with other lists of edges and ticks to come. -/
def State.withClocks (s : State) (edges : List Edge) (ticks : List (List TickTaker)) : State := { s with edges, ticks }

theorem State.withRx_eq (s : State) (rx : PerLine Receiver) : s.withRx rx = s.withRxClocks rx s.edges s.ticks := rfl

theorem State.withClocks_eq (s : State) (edges : List Edge) (ticks : List (List TickTaker)) :
    s.withClocks edges ticks = s.withRxClocks s.rx edges ticks := rfl

section

variable (s : State) (rx : PerLine Receiver) (edges : List Edge) (ticks : List (List TickTaker))

theorem State.buildIfDue_withRxClocks :
    (s.withRxClocks rx edges ticks).buildIfDue = s.buildIfDue.withRxClocks rx edges ticks := by
  have hdue : (s.withRxClocks rx edges ticks).buildDue = s.buildDue := rfl
  rw [State.buildIfDue, State.buildIfDue, hdue]
  split_ifs <;> rfl

theorem State.takeEvent_withRxClocks :
    (s.withRxClocks rx edges ticks).takeEvent = s.takeEvent.withRxClocks rx edges ticks := by
  have hnext : (s.withRxClocks rx edges ticks).nextArrival = s.nextArrival := rfl
  have hemitter : (s.withRxClocks rx edges ticks).emitter = s.emitter := rfl
  simp only [State.takeEvent, hnext, hemitter]
  cases s.emitter.inbox[s.nextArrival]? <;> rfl

theorem State.drain_withRxClocks : (s.withRxClocks rx edges ticks).drain = s.drain.withRxClocks rx edges ticks := by
  have htake : ∀ (n : Nat) (s : State),
      State.takeEvents n (s.withRxClocks rx edges ticks) = (State.takeEvents n s).withRxClocks rx edges ticks := by
    intro n
    induction n with
    | zero => exact fun s => s.buildIfDue_withRxClocks rx edges ticks
    | succ n ih =>
      intro s
      rw [State.takeEvents, State.buildIfDue_withRxClocks, State.takeEvent_withRxClocks, ih, State.takeEvents]
  exact htake s.emitter.inbox.length s

theorem State.drain_withRx : (s.withRx rx).drain = s.drain.withRx rx := by
  have hedges : s.drain.edges = s.edges := by simp
  have hticks : s.drain.ticks = s.ticks := by simp
  rw [State.withRx_eq, State.drain_withRxClocks, State.withRx_eq, hedges, hticks]

/-! ### Tickets and the gap of a session's end -/

theorem State.releaseTicket_withRx (k : Nat) (cause : Cause) :
    (s.withRx rx).releaseTicket k cause = (s.releaseTicket k cause).withRx rx := by
  by_cases hlast : s.buf.lastTicket k
  · rw [s.releaseTicket_of_last k cause hlast, (s.withRx rx).releaseTicket_of_last k cause hlast]
    rfl
  · rw [s.releaseTicket_of_not_last k cause hlast, (s.withRx rx).releaseTicket_of_not_last k cause hlast]
    rfl

end

/-- A transmitter that has no block in transmission ends none. -/
theorem State.endBlockSent_of_idle (s : State) (x : Line)
    (h : ∀ k, (s.tx.get x).state = .sending → (s.tx.get x).ticket ≠ some k) : s.endBlockSent x = s := by
  unfold State.endBlockSent
  split
  next k hstate hticket => exact absurd hticket (h k hstate)
  next => rfl

/-- The end of a block in transmission, or nothing. -/
theorem State.endBlockSent_cases (s : State) (x : Line) :
    (∃ k, (s.tx.get x).state = .sending ∧ (s.tx.get x).ticket = some k) ∨ s.endBlockSent x = s := by
  by_cases h : ∃ k, (s.tx.get x).state = .sending ∧ (s.tx.get x).ticket = some k
  · exact .inl h
  · exact .inr (s.endBlockSent_of_idle x fun k hstate hticket => h ⟨k, hstate, hticket⟩)

section

variable (s : State) (rx : PerLine Receiver)

theorem State.endBlockSent_withRx (x : Line) : (s.withRx rx).endBlockSent x = (s.endBlockSent x).withRx rx := by
  by_cases h : ∃ k, (s.tx.get x).state = .sending ∧ (s.tx.get x).ticket = some k
  · obtain ⟨k, hstate, hticket⟩ := h
    rw [s.endBlockSent_of_sending x k hstate hticket, (s.withRx rx).endBlockSent_of_sending x k hstate hticket,
      State.releaseTicket_withRx]
    rfl
  · have hidle : ∀ k, (s.tx.get x).state = .sending → (s.tx.get x).ticket ≠ some k :=
      fun k hstate hticket => h ⟨k, hstate, hticket⟩
    rw [s.endBlockSent_of_idle x hidle, (s.withRx rx).endBlockSent_of_idle x hidle]

theorem State.takeBeforeReply_withRx (e : GapEvent) :
    (s.withRx rx).takeBeforeReply e = (s.takeBeforeReply e).withRx rx := by
  cases e with
  | sent y => exact s.endBlockSent_withRx rx y
  | notice => exact s.drain_withRx rx
  | reply => rfl

theorem State.passReplyGap_withRx : (s.withRx rx).passReplyGap = s.passReplyGap.withRx rx := by
  have htake : ∀ (es : List GapEvent) (s : State),
      es.foldl State.takeBeforeReply (s.withRx rx) = (es.foldl State.takeBeforeReply s).withRx rx := by
    intro es
    induction es with
    | nil => exact fun _ => rfl
    | cons e es ih => intro s; rw [List.foldl_cons, State.takeBeforeReply_withRx, ih, List.foldl_cons]
  exact htake (s.gaps.headD []) { s with gaps := s.gaps.tail }

/-- The part as a session's end leaves it before the gap: the reply written, the request freed (R133). -/
def State.replyWritten (s : State) (ss : Session) : State :=
  let closing := if ss.outcome = .truncated then resultRecord 0 0 .truncated [] else []
  let t := s.writeResult ss.replyLen closing
  let v := s.buf.desc ss.request
  State.freeDesc { t with buf := t.buf.finishReply v.src s.self v.seq (ss.replyLen + closing.length) } ss.request

/-- The reply queued after the gap, and the session gone (R133). -/
def State.replyQueued (s : State) (x : Line) : State :=
  { s.enqueueOwn Config.replyTicket Config.replyDesc x with
    engine :=
      { s.engine with
        session := none
        state := if s.engine.state = .executing then .idle else s.engine.state } }

theorem State.endSession_eq (ss : Session) :
    s.endSession ss = (s.replyWritten ss).passReplyGap.replyQueued (s.ingressOf ss.request) := rfl

theorem State.endSession_withRx (ss : Session) : (s.withRx rx).endSession ss = (s.endSession ss).withRx rx := by
  have hwritten : (s.withRx rx).replyWritten ss = (s.replyWritten ss).withRx rx := rfl
  rw [State.endSession_eq, State.endSession_eq, hwritten, State.passReplyGap_withRx]
  rfl

theorem State.endIfOver_withRx : (s.withRx rx).endIfOver = s.endIfOver.withRx rx := by
  have hengine : (s.withRx rx).engine = s.engine := rfl
  have hplan : (s.withRx rx).unflushed = s.unflushed := rfl
  simp only [State.endIfOver, hengine, hplan]
  cases s.engine.session with
  | none => rfl
  | some ss =>
    dsimp only
    split_ifs
    · rfl
    · exact s.endSession_withRx rx ss

/-! ### Dispatch and admission (chapter 5) -/

theorem State.takeGapEvent_withRx (e : GapEvent) : (s.withRx rx).takeGapEvent e = (s.takeGapEvent e).withRx rx := by
  cases e with
  | sent y => exact s.endBlockSent_withRx rx y
  | notice => exact s.drain_withRx rx
  | reply => exact s.endIfOver_withRx rx

theorem State.passGap_withRx : (s.withRx rx).passGap = s.passGap.withRx rx := by
  have htake : ∀ (es : List GapEvent) (s : State),
      es.foldl State.takeGapEvent (s.withRx rx) = (es.foldl State.takeGapEvent s).withRx rx := by
    intro es
    induction es with
    | nil => exact fun _ => rfl
    | cons e es ih => intro s; rw [List.foldl_cons, State.takeGapEvent_withRx, ih, List.foldl_cons]
  exact htake (s.gaps.headD []) { s with gaps := s.gaps.tail }

theorem State.admitCopy_withRx (d : Nat) (x : Line) : (s.withRx rx).admitCopy d x = (s.admitCopy d x).withRx rx := by
  have hbuf : (s.withRx rx).buf = s.buf := rfl
  have hconfig : (s.withRx rx).config = s.config := rfl
  have hoccupancy (c : QClass) : (s.withRx rx).occupancy x c = s.occupancy x c := rfl
  simp only [State.admitCopy, hbuf, hconfig, hoccupancy]
  cases s.buf.freeTickets with
  | nil => rfl
  | cons t rest =>
    dsimp only
    split_ifs <;> rfl

theorem State.admitCopies_withRx (d : Nat) (xs : List Line) :
    State.admitCopies d xs (s.withRx rx) = (State.admitCopies d xs s).withRx rx := by
  induction xs generalizing s with
  | nil => rfl
  | cons x xs ih => rw [State.admitCopies, State.passGap_withRx, State.admitCopy_withRx, ih, State.admitCopies]

theorem State.admitBlock_of_none (d : Nat)
    (h : ((State.admitCopies d (s.buf.desc d).egress.members s).buf.desc d).tickets = 0) :
    s.admitBlock d = (State.admitCopies d (s.buf.desc d).egress.members s).freeDesc d := if_pos h

theorem State.admitBlock_of_some (d : Nat)
    (h : ((State.admitCopies d (s.buf.desc d).egress.members s).buf.desc d).tickets ≠ 0) :
    s.admitBlock d =
      (State.admitCopies d (s.buf.desc d).egress.members s).modDesc d fun v => { v with state := .queued } := if_neg h

theorem State.admitBlock_withRx (d : Nat) : (s.withRx rx).admitBlock d = (s.admitBlock d).withRx rx := by
  have hcopies := s.admitCopies_withRx rx d (s.buf.desc d).egress.members
  by_cases hnone : ((State.admitCopies d (s.buf.desc d).egress.members s).buf.desc d).tickets = 0
  · rw [s.admitBlock_of_none d hnone, (s.withRx rx).admitBlock_of_none d
      ((congrArg (fun t => (t.buf.desc d).tickets) hcopies).trans hnone)]
    exact congrArg (State.freeDesc · d) hcopies
  · rw [s.admitBlock_of_some d hnone, (s.withRx rx).admitBlock_of_some d fun h =>
      hnone ((congrArg (fun t => (t.buf.desc d).tickets) hcopies).symm.trans h)]
    exact congrArg (fun t => State.modDesc t d _) hcopies

theorem State.report_of_active (x : Line) (d n : Nat) (e : Entry) (hbound : (s.buf.desc d).bound = .slot n)
    (he : s.routes.slot n = .active e) :
    s.report x d =
      ((e.evaluate (s.buf.desc d).seq (s.buf.desc d).len).1,
        (s.setSlot n (.active (e.evaluate (s.buf.desc d).seq (s.buf.desc d).len).2)).releaseBind d) := by
  simp only [State.report, hbound, he, State.setSlot]

theorem State.report_of_retiring (x : Line) (d n : Nat) (e : Entry) (hbound : (s.buf.desc d).bound = .slot n)
    (he : s.routes.slot n = .retiring e) :
    s.report x d =
      (.retired,
        (s.countRx x fun c => { c with retiredCompletions := satAdd c.retiredCompletions 1 }).releaseBind d) := by
  simp only [State.report, hbound, he]

/-- A block that no slot in use binds is accepted as it stands. -/
theorem State.report_of_unbound (x : Line) (d : Nat)
    (h : ∀ n, (s.buf.desc d).bound = .slot n → s.routes.slot n = .free) :
    s.report x d = (.accepted, s.releaseBind d) := by
  cases hbound : (s.buf.desc d).bound with
  | none | default => simp only [State.report, hbound]
  | slot n => simp only [State.report, hbound, h n hbound]

theorem State.releaseBind_withRx (d : Nat) : (s.withRx rx).releaseBind d = (s.releaseBind d).withRx rx := by
  have hdesc : (s.withRx rx).buf.desc d = s.buf.desc d := rfl
  simp only [State.releaseBind, hdesc]
  cases (s.buf.desc d).bound <;> rfl

theorem State.report_withRx (x : Line) (d : Nat) :
    (s.withRx rx).report x d = ((s.report x d).1, (s.report x d).2.withRx rx) := by
  have hunbound (h : ∀ n, (s.buf.desc d).bound = .slot n → s.routes.slot n = .free) :
      (s.withRx rx).report x d = ((s.report x d).1, (s.report x d).2.withRx rx) := by
    rw [s.report_of_unbound x d h, (s.withRx rx).report_of_unbound x d h, State.releaseBind_withRx]
  cases hbound : (s.buf.desc d).bound with
  | none | default => exact hunbound fun n h => by rw [hbound] at h; cases h
  | slot n =>
    cases he : s.routes.slot n with
    | free => exact hunbound fun m h => by rw [hbound] at h; cases h; exact he
    | active e =>
      rw [s.report_of_active x d n e hbound he, (s.withRx rx).report_of_active x d n e hbound he]
      exact congrArg (Prod.mk _)
        ((s.setSlot n (.active (e.evaluate (s.buf.desc d).seq (s.buf.desc d).len).2)).releaseBind_withRx rx d)
    | retiring e =>
      rw [s.report_of_retiring x d n e hbound he, (s.withRx rx).report_of_retiring x d n e hbound he]
      exact congrArg (Prod.mk _) (State.releaseBind_withRx (s.countRx x _) rx d)

theorem State.offer_withRx (x : Line) (d : Nat) : (s.withRx rx).offer x d = (s.offer x d).withRx rx := by
  have hengine : (s.withRx rx).engine = s.engine := rfl
  simp only [State.offer, hengine]
  split_ifs <;> rfl

theorem State.dispatchStored_withRx (x : Line) (d : Nat) :
    (s.withRx rx).dispatchStored x d = (s.dispatchStored x d).withRx rx := by
  have hbuf : (s.withRx rx).buf = s.buf := rfl
  simp only [State.dispatchStored, hbuf, State.report_withRx]
  split_ifs
  · exact s.offer_withRx rx x d
  · obtain ⟨verdict, t⟩ := s.report x d
    cases verdict with
    | duplicate => rfl
    | accepted | retired => exact t.admitBlock_withRx rx d

end

/-- The part at the dispatch of a good block: counted on its line, its receiver already in GAP (R28, R90). -/
def State.blockCounted (s : State) (x : Line) (o : Byte) : State :=
  { s with
    rx := s.rx.set x ((s.rx.get x).completed o)
    count := { s.count with rx := s.count.rx.set x ((s.count.rx.get x).good (s.rx.get x).len) } }

/-- The second check octet of a good stored block dispatches it. -/
theorem exec_blockCompletion_of_stored (s : State) (x : Line) (o : Byte) (d : Nat) (hends : s.endsBlock x o true)
    (hfill : (s.rx.get x).filling = some d) :
    exec (.blockCompletion x o) s = .next ((s.blockCounted x o).dispatchStored x d) := by
  have hfilling : ((s.modRx x fun r =>
      { r with history := octetBits o, position := 2, deadline := .stopped }).rx.get x).filling = some d := by
    simpa using hfill
  let counted := s.countRx x fun c => c.good (s.rx.get x).len
  have hdispatch : (s.modRx x fun r => { r with history := octetBits o, position := 2, deadline := .stopped }).dispatch x
      (s.rx.get x).len = (counted.dispatchStored x d).withRx (s.rx.modify x fun r =>
        { r with history := octetBits o, position := 2, deadline := .stopped }) := by
    rw [← State.dispatchStored_withRx, State.dispatch]
    simp only [hfilling]
    rfl
  have hcompleted : s.blockCounted x o = counted.withRx (s.rx.set x ((s.rx.get x).completed o)) := rfl
  rw [exec_blockCompletion_of_endsBlock s x o true hends, s.completeBlock_of_good x o hends, hdispatch, hcompleted,
    State.dispatchStored_withRx, State.modRx, State.withRx]
  simp only [PerLine.modify_modify, Receiver.completed_eq]
  rfl

end Sys2Proof.Machine

/-! PROOF. Dispatch at block completion (chapter 5): the management queue, the report to the route, and the copies. -/

namespace Sys2Proof.Machine

/-! ### Marked blocks (R91) -/

theorem State.dispatchStored_of_marked (s : State) (x : Line) (d : Nat) (h : (s.buf.desc d).mark = true) :
    s.dispatchStored x d = s.offer x d := if_pos h

theorem State.changesOnly_blockCounted (s : State) (x : Line) (o : Byte) :
    s.changesOnly (s.blockCounted x o) [.rx x, .rxCount x] :=
  State.changesOnly_mono
    (State.changesOnly_trans (s.changesOnly_modRx x fun r => r.completed o)
      (State.changesOnly_countRx _ x fun c => c.good (s.rx.get x).len)) (by simp)

/-- Settles O25: there is room in the queue, or the block is freed and counted as an overflow. -/
theorem managementQueueOffer : Obligations.ManagementQueueOffer := by
  unfold Obligations.ManagementQueueOffer
  intro s x o d hends ⟨hfill, hd, hdescs⟩ hmark
  have hmarked : ((s.blockCounted x o).buf.desc d).mark = true := hmark
  rw [exec_blockCompletion_of_stored s x o d hends hfill, State.dispatchStored_of_marked _ x d hmarked]
  refine ⟨fun hroom => ?_, fun hfull => ?_⟩
  · have hqueue : (s.blockCounted x o).engine.queue.length < Config.mgmtQueueMax := hroom
    rw [State.offer, if_pos hqueue]
    rfl
  · have hqueue : ¬(s.blockCounted x o).engine.queue.length < Config.mgmtQueueMax := Nat.not_lt.2 hfull
    obtain ⟨hreturned, hevents⟩ := Buffer.freeDesc_returned s.buf d hd hdescs
    rw [State.offer, if_neg hqueue]
    refine ⟨_, rfl, ?_, ?_, ?_, hreturned, ?_, ?_⟩
    · simp [State.blockCounted]
    · simp [State.blockCounted]
    · simp [State.blockCounted, satAdd]
    · rw [Emitter.hear_append, ← hevents]
      rfl
    · exact State.changesOnly_mono
        (State.changesOnly_trans
          (State.changesOnly_trans
            (State.changesOnly_trans (s.changesOnly_blockCounted x o) (State.changesOnly_freeDesc _ d))
            (State.changesOnly_countEngine _ _))
          (State.changesOnly_raise _ _)) (by simp)

/-! ### The evaluation of a completion report (R67, R68) -/

theorem Entry.counted_eq (e : Entry) (len : Nat) : e.accept len = e.counted len := rfl

theorem Entry.evaluate_of_unchecked (e : Entry) (seq : Byte) (len : Nat) (h : e.seqCheck = none) :
    e.evaluate seq len = (.accepted, e.counted len) := by
  rw [Entry.evaluate, h, Entry.counted_eq]

/-- How far a block's number is past the expected one, modulo 256 (R68). -/
def seqDistance (seq expected : Byte) : Nat := (seq.toNat + 256 - expected.toNat) % 256

theorem seqDistance_eq (seq expected : Byte) : (seq - expected).toNat = seqDistance seq expected := by
  rw [seqDistance, BitVec.toNat_sub]
  have := expected.isLt
  omega

theorem eq_of_seqDistance_eq_zero {seq expected : Byte} (h : seqDistance seq expected = 0) : seq = expected := by
  rw [seqDistance] at h
  have := seq.isLt
  have := expected.isLt
  exact BitVec.eq_of_toNat_eq (by omega)

section

variable (e : Entry) (seq : Byte) (len w : Nat) (expected : Byte)

theorem Entry.evaluate_of_unprimed (h : e.seqCheck = some ⟨w, expected, false⟩) :
    e.evaluate seq len = (.accepted, { e.counted len with seqCheck := some ⟨w, seq + 1, true⟩ }) := by
  rw [Entry.evaluate, h]
  rfl

theorem Entry.evaluate_of_next (h : e.seqCheck = some ⟨w, expected, true⟩) (hdist : seqDistance seq expected = 0) :
    e.evaluate seq len = (.accepted, { e.counted len with seqCheck := some ⟨w, expected + 1, true⟩ }) := by
  rw [Entry.evaluate, h]
  simp only [seqDistance_eq, hdist, if_true]
  rfl

theorem Entry.evaluate_of_duplicate (h : e.seqCheck = some ⟨w, expected, true⟩) (hdist : seqDistance seq expected ≠ 0)
    (hbehind : 256 - seqDistance seq expected ≤ w) :
    e.evaluate seq len = (.duplicate, { e with duplicates := min (e.duplicates + 1) 4294967295 }) := by
  rw [Entry.evaluate, h]
  simp only [seqDistance_eq, if_neg hdist, if_pos hbehind]
  rfl

theorem Entry.evaluate_of_gap (h : e.seqCheck = some ⟨w, expected, true⟩) (hdist : seqDistance seq expected ≠ 0)
    (hahead : w < 256 - seqDistance seq expected) :
    e.evaluate seq len =
      (.accepted,
        { e.counted len with
          gaps := min (e.gaps + 1) 4294967295
          seqCheck := some ⟨w, seq + 1, true⟩ }) := by
  rw [Entry.evaluate, h]
  simp only [seqDistance_eq, if_neg hdist, if_neg (Nat.not_le.2 hahead)]
  rfl

end

/-! ### The report and its bind (R65, R69) -/

/-- The descriptor's bind given up. -/
def State.unbind (s : State) (d : Nat) : State := s.modDesc d fun v => { v with bound := .none }

theorem State.releaseBind_of_default (s : State) (d : Nat) (y : Line) (hbound : (s.buf.desc d).bound = .default y) :
    s.releaseBind d = s.unbind d := by
  simp only [State.releaseBind, hbound]
  rfl

section

variable (s : State) (d n : Nat) (e : Entry) (hbound : (s.buf.desc d).bound = .slot n)

include hbound

theorem State.releaseBind_of_slot :
    s.releaseBind d = (s.unbind d).withRoutes (s.routes.release n) := by
  simp only [State.releaseBind, hbound]
  rfl

/-- The report to an ACTIVE slot writes its entry and takes the bind back, one event (R69). -/
theorem State.releaseBind_setSlot_of_active (e' : Entry) (he : s.routes.slot n = .active e) :
    (s.setSlot n (.active e')).releaseBind d = (s.setSlot n (.active { e' with binds := e'.binds - 1 })).unbind d := by
  have hn : n < s.routes.slots.length := (List.getElem?_eq_some_iff.1 (RouteTable.slot_eq_active_iff.1 he)).1
  have hslot : (s.routes.setSlot n (.active e')).slot n = .active e' := by
    rw [RouteTable.slot_eq_active_iff, RouteTable.setSlot, List.getElem?_set_self hn]
  rw [(s.setSlot n (.active e')).releaseBind_of_slot d n hbound, State.withRoutes]
  simp only [State.setSlot, RouteTable.release, hslot, Emitter.hear_nil]
  simp only [RouteTable.setSlot, List.set_set, State.unbind, State.modDesc]

/-- The last bind of a RETIRING slot frees it (R66). -/
theorem State.releaseBind_of_retired (he : s.routes.slot n = .retiring e) (hlast : e.binds = 1) :
    s.releaseBind d = ((s.setSlot n .free).unbind d).raise (.routeFreed n) := by
  rw [s.releaseBind_of_slot d n hbound, RouteTable.release, he]
  simp only [hlast, Nat.sub_self, if_true]
  rfl

theorem State.releaseBind_of_retiring (he : s.routes.slot n = .retiring e) (hmore : 1 < e.binds) :
    s.releaseBind d = (s.setSlot n (.retiring { e with binds := e.binds - 1 })).unbind d := by
  have hleft : e.binds - 1 ≠ 0 := by omega
  rw [s.releaseBind_of_slot d n hbound, RouteTable.release, he]
  simp only [if_neg hleft, State.withRoutes, Emitter.hear_nil]
  simp only [State.unbind, State.modDesc, State.setSlot]

end

/-! ### Accepted blocks (R67, R93) -/

theorem State.dispatchStored_of_admitted (s t : State) (x : Line) (d : Nat) (v : Verdict) (hmark : (s.buf.desc d).mark = false)
    (hreport : s.report x d = (v, t)) (hv : v ≠ .duplicate) : s.dispatchStored x d = t.admitBlock d := by
  simp only [State.dispatchStored, hmark, Bool.false_eq_true, if_false, hreport]
  cases v with
  | duplicate => exact absurd rfl hv
  | accepted | retired => rfl

theorem State.dispatchStored_of_duplicate (s t : State) (x : Line) (d : Nat) (hmark : (s.buf.desc d).mark = false)
    (hreport : s.report x d = (.duplicate, t)) : s.dispatchStored x d = t.freeDesc d := by
  simp only [State.dispatchStored, hmark, Bool.false_eq_true, if_false, hreport]

/-- A good block that an ACTIVE slot's evaluation does not find a duplicate is admitted. -/
theorem exec_blockCompletion_of_accepted (s : State) (x : Line) (o : Byte) (d n : Nat) (e e' : Entry)
    (hends : s.endsBlock x o true) (hfill : (s.rx.get x).filling = some d) (hmark : (s.buf.desc d).mark = false)
    (hbound : (s.buf.desc d).bound = .slot n) (he : s.routes.slot n = .active e)
    (heval : e.evaluate (s.buf.desc d).seq (s.buf.desc d).len = (.accepted, e')) :
    exec (.blockCompletion x o) s = .next
      ((((s.blockCounted x o).setSlot n (.active { e' with binds := e'.binds - 1 })).unbind d).admitBlock d) := by
  have hreport := (s.blockCounted x o).report_of_active x d n e hbound he
  have heval' : e.evaluate ((s.blockCounted x o).buf.desc d).seq ((s.blockCounted x o).buf.desc d).len =
      (.accepted, e') := heval
  rw [heval', State.releaseBind_setSlot_of_active (s.blockCounted x o) d n e hbound e' he] at hreport
  rw [exec_blockCompletion_of_stored s x o d hends hfill,
    State.dispatchStored_of_admitted (s.blockCounted x o) _ x d _ hmark hreport (by simp)]

/-- Settles O27: the report by the kind of bind, and then the admission. -/
theorem acceptedBlockIsAdmitted : Obligations.AcceptedBlockIsAdmitted := by
  unfold Obligations.AcceptedBlockIsAdmitted
  intro s x o d hends ⟨hfill, hd, hdescs⟩ hmark v good reported
  have hexec := exec_blockCompletion_of_stored s x o d hends hfill
  refine ⟨fun y hbound => ?default, fun n e hbound he hcheck => ?unchecked,
    fun n e w expected primed hbound he hcheck => ?checked, fun n e hbound he hlast => ?retired,
    fun n e hbound he hmore => ?retiring⟩
  case default =>
    have hreport := (s.blockCounted x o).report_of_unbound x d fun n h => by
      rw [show ((s.blockCounted x o).buf.desc d).bound = .default y from hbound] at h
      cases h
    rw [(s.blockCounted x o).releaseBind_of_default d y hbound] at hreport
    rw [hexec, State.dispatchStored_of_admitted (s.blockCounted x o) _ x d _ hmark hreport (by decide)]
    rfl
  case unchecked =>
    rw [exec_blockCompletion_of_accepted s x o d n e _ hends hfill hmark hbound he (e.evaluate_of_unchecked _ _ hcheck)]
    rfl
  case checked =>
    intro dist hcases
    cases primed with
    | false =>
      rw [exec_blockCompletion_of_accepted s x o d n e _ hends hfill hmark hbound he
        (e.evaluate_of_unprimed _ _ w expected hcheck)]
      rfl
    | true =>
      by_cases hdist : dist = 0
      · have hnext : v.seq = expected := eq_of_seqDistance_eq_zero hdist
        rw [exec_blockCompletion_of_accepted s x o d n e _ hends hfill hmark hbound he
          (e.evaluate_of_next _ _ w expected hcheck hdist), if_neg fun h => h.2 hdist, hnext]
        rfl
      · have hahead : w < 256 - dist := by
          rcases hcases with hprimed | hzero | hahead
          · cases hprimed
          · exact absurd hzero hdist
          · exact hahead
        rw [exec_blockCompletion_of_accepted s x o d n e _ hends hfill hmark hbound he
          (e.evaluate_of_gap _ _ w expected hcheck hdist hahead), if_pos ⟨rfl, hdist⟩]
        rfl
  case retired =>
    have hreport := (s.blockCounted x o).report_of_retiring x d n e hbound he
    rw [State.releaseBind_of_retired ((s.blockCounted x o).countRx x _) d n e hbound he hlast] at hreport
    rw [hexec, State.dispatchStored_of_admitted (s.blockCounted x o) _ x d _ hmark hreport (by decide)]
    simp only [State.countRx, State.blockCounted, PerLine.modify_eq_set, PerLine.get_set_same, PerLine.set_set]
    rfl
  case retiring =>
    have hreport := (s.blockCounted x o).report_of_retiring x d n e hbound he
    rw [State.releaseBind_of_retiring ((s.blockCounted x o).countRx x _) d n e hbound he hmore] at hreport
    rw [hexec, State.dispatchStored_of_admitted (s.blockCounted x o) _ x d _ hmark hreport (by decide)]
    simp only [State.countRx, State.blockCounted, PerLine.modify_eq_set, PerLine.get_set_same, PerLine.set_set]
    rfl

/-! ### What an admission leaves (R97) -/

/-- The counters of the receivers and of the engine are those of `s`. -/
def State.sameCounts (s t : State) : Prop := t.count.rx = s.count.rx ∧ t.count.engine = s.count.engine

theorem State.sameCounts_of_count {s t : State} (h : t.count = s.count) : s.sameCounts t := by
  rw [State.sameCounts, h]
  exact ⟨rfl, rfl⟩

theorem State.sameCounts_trans {s t u : State} (hst : s.sameCounts t) (htu : t.sameCounts u) : s.sameCounts u :=
  ⟨htu.1.trans hst.1, htu.2.trans hst.2⟩

theorem State.sameCounts_foldl {α : Type} {f : State → α → State} (h : ∀ (s : State) (a : α), s.sameCounts (f s a)) (s : State)
    (as : List α) : s.sameCounts (as.foldl f s) := by
  induction as generalizing s with
  | nil => exact ⟨rfl, rfl⟩
  | cons a as ih => exact State.sameCounts_trans (h s a) (ih (f s a))

theorem State.sameCounts_endBlockSent (s : State) (x : Line) : s.sameCounts (s.endBlockSent x) := by
  rcases s.endBlockSent_cases x with ⟨k, hstate, hticket⟩ | hidle
  · obtain ⟨-, -, -, -, hengine⟩ := s.releases_releaseTicket k .sent true (by simp)
    rw [s.endBlockSent_of_sending x k hstate hticket]
    exact ⟨(s.releaseTicket_count k .sent).1, hengine.trans (if_neg fun h => absurd h.2.2 (by decide))⟩
  · rw [hidle]
    exact ⟨rfl, rfl⟩

theorem State.sameCounts_drain (s : State) : s.sameCounts s.drain := State.sameCounts_of_count (by simp)

theorem State.sameCounts_endSession (s : State) (ss : Session) : s.sameCounts (s.endSession ss) := by
  have hgap (t : State) : t.sameCounts t.passReplyGap := by
    refine State.sameCounts_foldl (fun u e => ?_) { t with gaps := t.gaps.tail } _
    cases e with
    | sent y => exact u.sameCounts_endBlockSent y
    | notice => exact u.sameCounts_drain
    | reply => exact ⟨rfl, rfl⟩
  rw [State.endSession_eq]
  exact hgap (s.replyWritten ss)

theorem State.sameCounts_endIfOver (s : State) : s.sameCounts s.endIfOver := by
  unfold State.endIfOver
  split
  · split_ifs
    · exact ⟨rfl, rfl⟩
    · exact s.sameCounts_endSession _
  · exact ⟨rfl, rfl⟩

theorem State.sameCounts_passGap (s : State) : s.sameCounts s.passGap := by
  refine State.sameCounts_foldl (fun u e => ?_) { s with gaps := s.gaps.tail } _
  cases e with
  | sent y => exact u.sameCounts_endBlockSent y
  | notice => exact u.sameCounts_drain
  | reply => exact u.sameCounts_endIfOver

theorem State.sameCounts_admitCopy (s : State) (d : Nat) (x : Line) : s.sameCounts (s.admitCopy d x) := by
  unfold State.admitCopy
  split
  · exact ⟨rfl, rfl⟩
  · dsimp only
    split_ifs <;> exact ⟨rfl, rfl⟩

theorem State.sameCounts_admitCopies (s : State) (d : Nat) (xs : List Line) :
    s.sameCounts (State.admitCopies d xs s) := by
  induction xs generalizing s with
  | nil => exact ⟨rfl, rfl⟩
  | cons x xs ih =>
    exact State.sameCounts_trans (State.sameCounts_trans s.sameCounts_passGap (State.sameCounts_admitCopy _ d x)) (ih _)

theorem State.sameCounts_admitBlock (s : State) (d : Nat) : s.sameCounts (s.admitBlock d) := by
  by_cases hnone : ((State.admitCopies d (s.buf.desc d).egress.members s).buf.desc d).tickets = 0
  · rw [s.admitBlock_of_none d hnone]
    exact s.sameCounts_admitCopies d _
  · rw [s.admitBlock_of_some d hnone]
    exact s.sameCounts_admitCopies d _

theorem State.changesOnly_admitBlock (s : State) (d : Nat) :
    s.changesOnly (s.admitBlock d)
      [.cells, .pools, .descs, .tickets, .engine, .emitter, .tx .a, .tx .b, .tx .l, .txCount .a, .txCount .b,
        .txCount .l, .gaps, .awaits, .arrivals] := by
  obtain ⟨hrx, hengine⟩ := s.sameCounts_admitBlock d
  intro p hp
  cases p
  case tx y => cases y <;> simp at hp
  case txCount y => cases y <;> simp at hp
  case cells | pools | descs | tickets | engine | emitter | gaps | awaits | arrivals => simp at hp
  case rxCount => simp [Part.same, hrx]
  case engineCount => exact hengine
  all_goals simp [Part.same]

/-! ### The sequence check (R68) -/

theorem State.changesOnly_setSlot (s : State) (n : Nat) (v : Slot) : s.changesOnly (s.setSlot n v) [.slots] := by
  intro p hp
  cases p
  case slots => simp at hp
  all_goals simp [Part.same, State.setSlot, RouteTable.setSlot]

theorem RouteTable.slot_setSlot_of_active (r : RouteTable) (n : Nat) (e : Entry) (v : Slot) (he : r.slot n = .active e) :
    (r.setSlot n v).slot n = v := by
  have hn : n < r.slots.length := (List.getElem?_eq_some_iff.1 (RouteTable.slot_eq_active_iff.1 he)).1
  simp [RouteTable.slot, RouteTable.setSlot, List.getD_eq_getElem?_getD, hn]

/-- What an accepted block's completion leaves, its admission included. -/
theorem State.accepted_parts (s : State) (x : Line) (o : Byte) (d n : Nat) (e e' : Entry) (he : s.routes.slot n = .active e) :
    let t := (((s.blockCounted x o).setSlot n (.active e')).unbind d).admitBlock d
    t.routes.slot n = .active e' ∧ (∀ m, m ≠ n → t.routes.slot m = s.routes.slot m) ∧
      t.rx.get x = (s.rx.get x).completed o ∧ t.count.rx.get x = (s.count.rx.get x).good (s.rx.get x).len ∧
      s.changesOnly t
        [.rx x, .rxCount x, .slots, .cells, .pools, .descs, .tickets, .engine, .emitter, .tx .a, .tx .b, .tx .l, .txCount .a,
          .txCount .b, .txCount .l, .gaps, .awaits, .arrivals] := by
  intro t
  have hroutes : t.routes = s.routes.setSlot n (.active e') := by simp [t, State.unbind, State.setSlot, State.blockCounted]
  have hcount : t.count.rx = s.count.rx.set x ((s.count.rx.get x).good (s.rx.get x).len) :=
    (State.sameCounts_admitBlock _ d).1
  refine ⟨by rw [hroutes, RouteTable.slot_setSlot_of_active _ _ _ _ he],
    fun m hm => by rw [hroutes, RouteTable.slot_setSlot_other _ _ hm], ?_, by rw [hcount, PerLine.get_set_same], ?_⟩
  · simp [t, State.unbind, State.setSlot, State.blockCounted]
  · exact State.changesOnly_mono
      (State.changesOnly_trans
        (State.changesOnly_trans
          (State.changesOnly_trans (s.changesOnly_blockCounted x o) (State.changesOnly_setSlot _ n _))
          (State.changesOnly_modDesc _ d _))
        (State.changesOnly_admitBlock _ d)) (by simp)

/-- A duplicate's bind is released and it is freed, with no copy (R93). -/
theorem exec_blockCompletion_of_duplicate (s : State) (x : Line) (o : Byte) (d n : Nat) (e e' : Entry)
    (hends : s.endsBlock x o true) (hfill : (s.rx.get x).filling = some d) (hmark : (s.buf.desc d).mark = false)
    (hbound : (s.buf.desc d).bound = .slot n) (he : s.routes.slot n = .active e)
    (heval : e.evaluate (s.buf.desc d).seq (s.buf.desc d).len = (.duplicate, e')) :
    exec (.blockCompletion x o) s = .next
      ((((s.blockCounted x o).setSlot n (.active { e' with binds := e'.binds - 1 })).unbind d).freeDesc d) := by
  have hreport := (s.blockCounted x o).report_of_active x d n e hbound he
  have heval' : e.evaluate ((s.blockCounted x o).buf.desc d).seq ((s.blockCounted x o).buf.desc d).len = (.duplicate, e') :=
    heval
  rw [heval', State.releaseBind_setSlot_of_active (s.blockCounted x o) d n e hbound e' he] at hreport
  rw [exec_blockCompletion_of_stored s x o d hends hfill,
    State.dispatchStored_of_duplicate (s.blockCounted x o) _ x d hmark hreport]

/-- A general descriptor whose bind is given up goes back as it would with it. -/
theorem Buffer.returned_unbound (b : Buffer) (d : Nat) (hd : d < 126) (hdescs : b.descs.length = 128) :
    b.returned ((b.modDesc d fun v => { v with bound := .none }).freeDesc d).1 d ∧
      ((b.modDesc d fun v => { v with bound := .none }).freeDesc d).2 = b.freedEvents d := by
  let b' := b.modDesc d fun v => { v with bound := .none }
  have hchain : (b'.desc d).chain = (b.desc d).chain := by
    rw [Buffer.desc_modDesc_same b d _ (by omega)]
  obtain ⟨hreturned, hevents⟩ := b'.freeDesc_returned d hd (by simpa [b'] using hdescs)
  refine ⟨Buffer.returned_of_same hreturned hchain (fun n hn => b.desc_modDesc_other _ hn) ?_ ?_ ?_ ?_ ?_ ?_ ?_ ?_,
    hevents.trans (Buffer.freedEvents_of_same hchain ?_ ?_)⟩ <;> simp [b']

/-- What a duplicate's completion leaves. -/
theorem State.duplicate_parts (s : State) (x : Line) (o : Byte) (d n : Nat) (e e' : Entry)
    (he : s.routes.slot n = .active e) (hd : d < 126) (hdescs : s.buf.descs.length = 128) :
    let t := (((s.blockCounted x o).setSlot n (.active e')).unbind d).freeDesc d
    t.routes.slot n = .active e' ∧ (∀ m, m ≠ n → t.routes.slot m = s.routes.slot m) ∧ s.buf.returned t.buf d ∧
      t.emitter = s.emitter.hear (s.buf.freedEvents d) ∧ t.rx.get x = (s.rx.get x).completed o ∧
      t.count.rx.get x = (s.count.rx.get x).good (s.rx.get x).len ∧
      s.changesOnly t [.rx x, .rxCount x, .slots, .pools, .descs, .emitter] := by
  intro t
  obtain ⟨hreturned, hevents⟩ := s.buf.returned_unbound d hd hdescs
  refine ⟨RouteTable.slot_setSlot_of_active s.routes n e _ he, fun m hm => RouteTable.slot_setSlot_other s.routes _ hm,
    hreturned, congrArg s.emitter.hear hevents, PerLine.get_set_same .., PerLine.get_set_same .., ?_⟩
  exact State.changesOnly_mono
    (State.changesOnly_trans
      (State.changesOnly_trans
        (State.changesOnly_trans (s.changesOnly_blockCounted x o) (State.changesOnly_setSlot _ n _))
        (State.changesOnly_modDesc _ d _))
      (State.changesOnly_freeDesc _ d)) (by simp)

/-- Settles O26: the evaluation's case gives the entry; a duplicate is freed, and every other block is admitted. -/
theorem sequenceCheckCases : Obligations.SequenceCheckCases := by
  unfold Obligations.SequenceCheckCases
  intro s x o d n e w expected primed hends ⟨hfill, hd, hdescs⟩ hmark hbound he hcheck v dist acc
  have haccept (e' : Entry) (heval : e.evaluate v.seq v.len = (.accepted, e')) :=
    exec_blockCompletion_of_accepted s x o d n e e' hends hfill hmark hbound he heval
  have hparts (e' : Entry) := s.accepted_parts x o d n e e' he
  cases primed with
  | false =>
    obtain ⟨hslot, hrest⟩ := hparts { acc with seqCheck := some ⟨w, v.seq + 1, true⟩ }
    refine ⟨_, haccept _ (e.evaluate_of_unprimed _ _ w expected hcheck), fun _ => hslot, fun h => ?_, fun h => ?_,
      fun h => ?_, hrest⟩ <;> cases h
  | true =>
    by_cases hdist : dist = 0
    · obtain ⟨hslot, hrest⟩ := hparts { acc with seqCheck := some ⟨w, expected + 1, true⟩ }
      exact ⟨_, haccept _ (e.evaluate_of_next _ _ w expected hcheck hdist), fun h => absurd h (by decide), fun _ _ => hslot,
        fun _ h => absurd hdist h, fun _ h => absurd hdist h, hrest⟩
    · by_cases hbehind : 256 - dist ≤ w
      · have heval : e.evaluate v.seq v.len = (.duplicate, { e with duplicates := min (e.duplicates + 1) 4294967295 }) :=
          e.evaluate_of_duplicate _ _ w expected hcheck hdist hbehind
        obtain ⟨hslot, hothers, hreturned, hemitter, hrx, hcount, hchanges⟩ := s.duplicate_parts x o d n e _ he hd hdescs
        refine ⟨_, exec_blockCompletion_of_duplicate s x o d n e _ hends hfill hmark hbound he heval,
          fun h => absurd h (by decide), fun _ h => absurd h hdist, fun _ _ _ => ⟨hslot, hreturned, hemitter, hchanges⟩,
          fun _ _ h => absurd hbehind (Nat.not_le.2 h), hothers, hrx, hcount, State.changesOnly_mono hchanges (by simp)⟩
      · have hahead : w < 256 - dist := by omega
        obtain ⟨hslot, hrest⟩ :=
          hparts { acc with seqCheck := some ⟨w, v.seq + 1, true⟩, gaps := min (e.gaps + 1) 4294967295 }
        exact ⟨_, haccept _ (e.evaluate_of_gap _ _ w expected hcheck hdist hahead), fun h => absurd h (by decide),
          fun _ h => absurd h hdist, fun _ _ h => absurd h hbehind, fun _ _ _ => hslot, hrest⟩

end Sys2Proof.Machine

/-! PROOF. The copies of a block (R94 to R97): one by one, and counted whatever falls in the gaps between them. -/

namespace Sys2Proof.Machine

/-! ### One copy (R95, R96) -/

theorem State.admitCopy_of_no_ticket (s : State) (d : Nat) (x : Line) (h : s.buf.freeTickets = []) :
    s.admitCopy d x = s.countTx x fun c => { c with ticketExhausted := satAdd c.ticketExhausted 1 } := by
  simp only [State.admitCopy, h]

theorem State.admitCopy_of_full (s : State) (d : Nat) (x : Line) (k : Nat) (rest : List Nat)
    (h : s.buf.freeTickets = k :: rest)
    (hfull : (s.config.get x).limit (s.buf.desc d).cls < s.occupancy x (s.buf.desc d).cls + (s.buf.desc d).chain.length) :
    s.admitCopy d x =
      { s with
        buf :=
          { s.buf.modTicket k fun t => { t with desc := d, line := x, cls := (s.buf.desc d).cls } with
            freeTickets := k :: rest } }.countTx x fun c =>
          { c with queueFull := satAdd c.queueFull 1 } := by
  simp only [State.admitCopy, h, if_pos hfull, Buffer.claimTicket, Buffer.withdrawTicket, Buffer.modTicket, List.headD_cons,
    List.tail_cons]

theorem State.admitCopy_of_room (s : State) (d : Nat) (x : Line) (k : Nat) (rest : List Nat)
    (h : s.buf.freeTickets = k :: rest)
    (hroom : s.occupancy x (s.buf.desc d).cls + (s.buf.desc d).chain.length ≤ (s.config.get x).limit (s.buf.desc d).cls) :
    s.admitCopy d x =
      { s with
        buf := Buffer.setWaiting { s.buf with freeTickets := rest } k d x (s.buf.desc d).cls }.modTx x fun e =>
          e.enqueue (s.buf.desc d).cls k := by
  simp only [State.admitCopy, h, if_neg (Nat.not_lt.2 hroom), Buffer.claimTicket, Buffer.setWaiting, Buffer.modTicket,
    List.headD_cons, List.tail_cons, List.modify_modify_eq]
  rfl

/-- Settles O28: the copies in the order A, B, L, with a gap before each. -/
theorem copiesAreAdmittedOrDropped : Obligations.CopiesAreAdmittedOrDropped := by
  unfold Obligations.CopiesAreAdmittedOrDropped
  refine ⟨fun u y hquiet => ?sent, fun u hquiet hflushed => ?ends, fun u hopen => ?stays, fun s d => ⟨?block, fun x => ?copy⟩⟩
  case sent => rw [exec, execBlockSent, u.running_of_quiet _ hquiet]
  case ends => rw [exec, execSessionEnd, u.atRecord_of_quiet _ hquiet hflushed]
  case stays =>
    rw [State.endIfOver]
    cases hsession : u.engine.session with
    | none => rfl
    | some ss =>
      exact if_pos (hopen.imp (fun h => h ss hsession) id)
  case block =>
    intro copy gap e s1
    have hgap (u : State) : gap u = u.passGap := rfl
    have hcopies : s1 = State.admitCopies d (s.buf.desc d).egress.members s := by
      rcases hegress : (s.buf.desc d).egress with ⟨a, b, l⟩
      cases a <;> cases b <;> cases l <;> simp only [s1, e, hegress] <;> rfl
    rw [hcopies]
    rfl
  case copy =>
    intro v q limit queue occupancy
    have hlimit : (s.config.get x).limit v.cls = limit := by cases hcls : v.cls <;> simp [limit, hcls, LineConfig.limit]
    have hoccupancy : s.occupancy x v.cls = occupancy := by
      cases hcls : v.cls <;> simp only [occupancy, queue, hcls, State.occupancy, Egress.queue] <;> rfl
    refine ⟨fun hnone => ?_, fun k rest hfree hfull => ?_, fun k rest hfree hroom => ?_⟩
    · rw [s.admitCopy_of_no_ticket d x hnone]
      rfl
    · rw [s.admitCopy_of_full d x k rest hfree (by rw [hlimit, hoccupancy]; exact hfull)]
      refine ⟨rfl, fun hstate => ?_, fun n hn => Buffer.ticket_modTicket_other s.buf _ hn⟩
      exact (s.buf.kept_modTicket Ticket.state k k (fun t => { t with desc := d, line := x, cls := v.cls })
        fun _ => rfl).trans hstate
    · rw [s.admitCopy_of_room d x k rest hfree (by rw [hlimit, hoccupancy]; exact hroom)]
      cases hcls : v.cls <;> rfl

end Sys2Proof.Machine

/-! PROOF. Every copy of a block is counted once (R97), whatever falls in the gaps between the claims. -/

namespace Sys2Proof.Machine

/-! ### What is counted -/

/-- The copies that wait in the queues of a line, the reply's and the notice's own tickets aside. -/
def Egress.copies (e : Egress) : Nat := ((e.urgent ++ e.normal).filter fun k => k ≠ 190 ∧ k ≠ 191).length

/-- The copies dropped on a line. -/
def TxCounters.drops (c : TxCounters) : Nat := c.ticketExhausted + c.queueFull

/-- A number for each line, added. -/
def perLineTotal (f : Line → Nat) : Nat := f .a + f .b + f .l

theorem perLineTotal_congr {f g : Line → Nat} (h : ∀ x, f x = g x) : perLineTotal f = perLineTotal g := by
  rw [perLineTotal, perLineTotal, h, h, h]

theorem perLineTotal_of_one {f g : Line → Nat} (x : Line) (n : Nat) (hx : g x = f x + n) (hother : ∀ y, y ≠ x → g y = f y) :
    perLineTotal g = perLineTotal f + n := by
  cases x
  · rw [perLineTotal, perLineTotal, hx, hother .b (by decide), hother .l (by decide)]
    omega
  · rw [perLineTotal, perLineTotal, hx, hother .a (by decide), hother .l (by decide)]
    omega
  · rw [perLineTotal, perLineTotal, hx, hother .a (by decide), hother .b (by decide)]
    omega

/-- No ticket in transmission names descriptor `d`, each is in one transmitter alone and none is free (R43), and `d` is no
request of the session. -/
def State.unrelated (s : State) (d : Nat) : Prop :=
  (∀ x k, (s.tx.get x).ticket = some k →
    (s.buf.ticket k).desc ≠ d ∧ k ∉ s.buf.freeTickets ∧ ∀ y, y ≠ x → (s.tx.get y).ticket ≠ some k) ∧
  ∀ ss, s.engine.session = some ss → ss.request ≠ d

/-- What an event of a gap leaves of a block in dispatch and of what its copies are counted by. -/
structure State.Passes (s t : State) (d : Nat) : Prop where
  copies : ∀ x, (t.tx.get x).copies = (s.tx.get x).copies
  exhausted : ∀ x, (t.count.tx.get x).ticketExhausted = (s.count.tx.get x).ticketExhausted
  full : ∀ x, (t.count.tx.get x).queueFull = (s.count.tx.get x).queueFull
  own : ∀ k, 190 ≤ k → k ∉ s.buf.freeTickets → k ∉ t.buf.freeTickets
  length : t.buf.descs.length = s.buf.descs.length
  spared : d < 126 → s.unrelated d → t.unrelated d ∧ (t.buf.desc d).tickets = (s.buf.desc d).tickets

theorem State.Passes.refl (s : State) (d : Nat) : s.Passes s d :=
  ⟨fun _ => rfl, fun _ => rfl, fun _ => rfl, fun _ _ h => h, rfl, fun _ h => ⟨h, rfl⟩⟩

theorem State.Passes.trans {s t u : State} {d : Nat} (hst : s.Passes t d) (htu : t.Passes u d) : s.Passes u d where
  copies x := (htu.copies x).trans (hst.copies x)
  exhausted x := (htu.exhausted x).trans (hst.exhausted x)
  full x := (htu.full x).trans (hst.full x)
  own k hk h := htu.own k hk (hst.own k hk h)
  length := htu.length.trans hst.length
  spared hd h :=
    have ⟨ht, hdesc⟩ := hst.spared hd h
    have ⟨hu, hdesc'⟩ := htu.spared hd ht
    ⟨hu, hdesc'.trans hdesc⟩

theorem State.Passes.foldl {α : Type} {f : State → α → State} {d : Nat} (h : ∀ (s : State) (a : α), s.Passes (f s a) d)
    (s : State) (as : List α) : s.Passes (as.foldl f s) d := by
  induction as generalizing s with
  | nil => exact .refl s d
  | cons a as ih => exact (h s a).trans (ih (f s a))

/-- An event that leaves the transmitters, the tickets and the counters alone. -/
theorem State.Passes.of_same {s t : State} {d : Nat} (htx : t.tx = s.tx) (hcount : t.count.tx = s.count.tx)
    (hfree : t.buf.freeTickets = s.buf.freeTickets) (htickets : t.buf.tickets = s.buf.tickets)
    (hlength : t.buf.descs.length = s.buf.descs.length)
    (hsession : t.engine.session = s.engine.session ∨ t.engine.session = none)
    (hdesc : d < 126 → s.unrelated d → (t.buf.desc d).tickets = (s.buf.desc d).tickets) : s.Passes t d where
  copies x := by rw [htx]
  exhausted x := by rw [hcount]
  full x := by rw [hcount]
  own k _ h := by rwa [hfree]
  length := hlength
  spared hd h := by
    obtain ⟨hsending, hrequest⟩ := h
    refine ⟨⟨fun x k hk => ?_, fun ss hss => ?_⟩, hdesc hd ⟨hsending, hrequest⟩⟩
    · rw [htx] at hk ⊢
      rw [hfree, Buffer.ticket, htickets]
      exact hsending x k hk
    · rcases hsession with hsame | hnone
      · exact hrequest ss (hsame ▸ hss)
      · rw [hnone] at hss
        cases hss

/-! ### The events of the gaps -/

/-- A descriptor freed, where it is not the block's own. -/
theorem State.passes_freeDesc (s : State) (d r : Nat) (h : s.unrelated d → r ≠ d) : s.Passes (s.freeDesc r) d := by
  refine State.Passes.of_same (by simp) (by simp) (by simp [State.freeDesc]) (by simp [State.freeDesc])
    (by simp [State.freeDesc]) (.inl (by simp)) fun _ hunrelated => ?_
  exact congrArg Descriptor.tickets (s.buf.freeDesc_desc_other (h hunrelated).symm)

/-- The reply's or the notice's own ticket takes its place in a queue. -/
theorem State.passes_enqueueOwn (s : State) (d t r : Nat) (x : Line) (ht : t = 190 ∨ t = 191) (hr : 126 ≤ r) :
    s.Passes (s.enqueueOwn t r x) d where
  copies y := by
    by_cases hy : y = x
    · subst hy
      rcases ht with rfl | rfl <;> simp [State.enqueueOwn, Egress.copies, Egress.enqueue]
    · simp [State.enqueueOwn, PerLine.get_modify_other _ _ hy]
  exhausted _ := rfl
  full _ := rfl
  own _ _ h := by simpa [State.enqueueOwn] using h
  length := by simp [State.enqueueOwn]
  spared hd h := by
    obtain ⟨hsending, hrequest⟩ := h
    have hticket (y : Line) : ((s.enqueueOwn t r x).tx.get y).ticket = (s.tx.get y).ticket := by
      by_cases hy : y = x
      · subst hy
        simp [State.enqueueOwn, Egress.enqueue]
      · simp [State.enqueueOwn, PerLine.get_modify_other _ _ hy]
    refine ⟨⟨fun y k hk => ?_, hrequest⟩, ?_⟩
    · rw [hticket] at hk
      obtain ⟨hdesc, hfree, hothers⟩ := hsending y k hk
      refine ⟨?_, by simpa [State.enqueueOwn] using hfree, fun z hz => by rw [hticket]; exact hothers z hz⟩
      have hbuf : (s.enqueueOwn t r x).buf.ticket k = (s.buf.modTicket t fun _ => ⟨.waiting, r, x, .urgent, 0⟩).ticket k := by
        simp [State.enqueueOwn]
      rw [hbuf]
      by_cases hk' : k = t
      · subst hk'
        rcases Nat.lt_or_ge k s.buf.tickets.length with hlt | hge
        · rw [s.buf.ticket_modTicket_same k _ hlt]
          exact fun h => by simp only at h; omega
        · have hout : (s.buf.modTicket k fun _ => ⟨.waiting, r, x, .urgent, 0⟩).ticket k = s.buf.ticket k := by
            simp [Buffer.ticket, Buffer.modTicket, List.getD_eq_getElem?_getD, Nat.not_lt.2 hge]
          rwa [hout]
      · rwa [s.buf.ticket_modTicket_other _ hk']
    · have hother : d ≠ r := by omega
      simp [State.enqueueOwn, Buffer.desc_modDesc_other _ _ hother]

/-- Octets written into the reply's or the notice's block, and its descriptor set, touch no general descriptor. -/
theorem Buffer.fillNotice_kept (b : Buffer) (x : Line) (dst src seq : Byte) (text : List Byte) :
    let b' := (b.takeNotice x).fillNotice dst src seq text
    b'.freeTickets = b.freeTickets ∧ b'.tickets = b.tickets ∧ b'.descs.length = b.descs.length ∧
      ∀ n, n ≠ 127 → b'.desc n = b.desc n := by
  refine ⟨by simp [Buffer.takeNotice, Buffer.fillNotice], by simp [Buffer.takeNotice, Buffer.fillNotice],
    by simp [Buffer.takeNotice, Buffer.fillNotice], fun n hn => ?_⟩
  have hn' : n ≠ Config.noticeDesc := hn
  rw [Buffer.fillNotice, Buffer.desc_modDesc_other _ _ hn', Buffer.putOctets_desc_other _ _ _ hn', Buffer.takeNotice,
    Buffer.claimPart_desc_other _ hn', Buffer.desc_modDesc_other _ _ hn']

theorem State.passes_buildNotice (s : State) (d : Nat) : s.Passes s.buildNotice d := by
  let b := (s.buf.takeNotice s.emitter.line).fillNotice s.emitter.station s.self s.emitter.seq
    s.emitter.pending.records.flatten
  obtain ⟨hfree, htickets, hlength, hdesc⟩ := s.buf.fillNotice_kept s.emitter.line s.emitter.station s.self s.emitter.seq
    s.emitter.pending.records.flatten
  have hfilled : s.Passes { s with buf := b } d :=
    State.Passes.of_same rfl rfl hfree htickets hlength (.inl rfl) fun hd _ =>
      congrArg Descriptor.tickets (hdesc d (by omega))
  have hqueued := State.passes_enqueueOwn { s with buf := b } d Config.noticeTicket Config.noticeDesc s.emitter.line
    (.inr rfl) (by decide)
  exact (hfilled.trans hqueued).trans
    (State.Passes.of_same rfl rfl rfl rfl rfl (.inl rfl) fun _ _ => rfl)

theorem State.passes_buildIfDue (s : State) (d : Nat) : s.Passes s.buildIfDue d := by
  unfold State.buildIfDue
  split_ifs
  · exact s.passes_buildNotice d
  · exact .refl s d

theorem State.passes_takeEvent (s : State) (d : Nat) : s.Passes s.takeEvent d :=
  State.Passes.of_same (by simp) (by simp) (by simp) (by simp) (by simp) (.inl (by simp)) fun _ _ => by simp

theorem State.passes_drain (s : State) (d : Nat) : s.Passes s.drain d := by
  have htake : ∀ (n : Nat) (s : State), s.Passes (State.takeEvents n s) d := by
    intro n
    induction n with
    | zero => exact fun s => s.passes_buildIfDue d
    | succ n ih => exact fun s => ((s.passes_buildIfDue d).trans (State.passes_takeEvent _ d)).trans (ih _)
  exact htake _ s

theorem State.releaseTicket_length (s : State) (k : Nat) (cause : Cause) :
    (s.releaseTicket k cause).buf.descs.length = s.buf.descs.length := by
  obtain ⟨-, -, -, -, -, -, -, hlength⟩ := s.buf.dropTicket_kept k
  by_cases hlast : s.buf.lastTicket k
  · rw [s.releaseTicket_of_last k cause hlast]
    simp [State.freeDesc, hlength]
  · rw [s.releaseTicket_of_not_last k cause hlast]
    exact hlength

theorem State.releaseTicket_freeTickets (s : State) (k : Nat) (cause : Cause) :
    (s.releaseTicket k cause).buf.freeTickets = s.buf.freeTickets ++ if k < 190 then [k] else [] :=
  (s.releaseTicket_tickets k cause).2.trans (s.buf.dropTicket_freeTickets k)

theorem State.not_mem_freeTickets_releaseTicket (s : State) (k j : Nat) (cause : Cause) (hj : j ∉ s.buf.freeTickets)
    (hk : k < 190 → j ≠ k) : j ∉ (s.releaseTicket k cause).buf.freeTickets := by
  rw [s.releaseTicket_freeTickets k cause, List.mem_append, not_or]
  refine ⟨hj, ?_⟩
  split_ifs with hgeneral
  · simpa using hk hgeneral
  · simp

/-- The transmitters after the end of a block: none in transmission on its line, and the queues as they were. -/
theorem State.endBlockSent_tx (s : State) (y : Line) (k : Nat) (hstate : (s.tx.get y).state = .sending)
    (hticket : (s.tx.get y).ticket = some k) :
    ((s.endBlockSent y).tx.get y).ticket = none ∧ (∀ x, x ≠ y → (s.endBlockSent y).tx.get x = s.tx.get x) ∧
      ∀ x, ((s.endBlockSent y).tx.get x).copies = (s.tx.get x).copies := by
  have hother (x : Line) (hx : x ≠ y) : (s.endBlockSent y).tx.get x = s.tx.get x := by
    simp [s.endBlockSent_of_sending y k hstate hticket, PerLine.get_modify_other _ _ hx]
  have hsame := s.endBlockSent_of_sending y k hstate hticket
  refine ⟨by simp [hsame], hother, fun x => ?_⟩
  by_cases hx : x = y
  · subst hx
    simp [hsame, Egress.copies, Egress.sentOut]
  · rw [hother x hx]

theorem State.endBlockSent_counts (s : State) (y x : Line) (k : Nat) (hstate : (s.tx.get y).state = .sending)
    (hticket : (s.tx.get y).ticket = some k) :
    ((s.endBlockSent y).count.tx.get x).ticketExhausted = (s.count.tx.get x).ticketExhausted ∧
      ((s.endBlockSent y).count.tx.get x).queueFull = (s.count.tx.get x).queueFull := by
  obtain ⟨-, hcount⟩ := s.releaseTicket_count k .sent
  rw [s.endBlockSent_of_sending y k hstate hticket]
  by_cases hx : x = y
  · subst hx
    simp [hcount]
  · simp [hcount, PerLine.get_modify_other _ _ hx]

/-- The end of a block in transmission: its ticket names another block. -/
theorem State.passes_endBlockSent (s : State) (d : Nat) (y : Line) : s.Passes (s.endBlockSent y) d := by
  rcases s.endBlockSent_cases y with ⟨k, hstate, hticket⟩ | hidle
  · obtain ⟨hbuf, -, -⟩ := s.endBlockSent_parts y k hstate hticket
    obtain ⟨hnone, hother, hcopies⟩ := s.endBlockSent_tx y k hstate hticket
    have hlength : (s.endBlockSent y).buf.descs.length = s.buf.descs.length := by rw [hbuf, s.releaseTicket_length]
    refine ⟨hcopies, fun x => (s.endBlockSent_counts y x k hstate hticket).1,
      fun x => (s.endBlockSent_counts y x k hstate hticket).2, fun j hj hfree => ?_, hlength,
      fun hd ⟨hsending, hrequest⟩ => ?_⟩
    · rw [hbuf]
      exact s.not_mem_freeTickets_releaseTicket k j .sent hfree (by omega)
    · obtain ⟨hnamed, -, halone⟩ := hsending y k hticket
      refine ⟨⟨fun x j hj => ?_, ?_⟩, ?_⟩
      · by_cases hx : x = y
        · rw [hx, hnone] at hj
          cases hj
        · rw [hother x hx] at hj
          obtain ⟨hdesc, hfree, hothers⟩ := hsending x j hj
          rw [hbuf, s.releaseTicket_ticket_desc]
          refine ⟨hdesc, s.not_mem_freeTickets_releaseTicket k j .sent hfree fun _ h => halone x hx (h ▸ hj), fun z hz => ?_⟩
          by_cases hzy : z = y
          · rw [hzy, hnone]
            exact fun h => by cases h
          · rw [hother z hzy]
            exact hothers z hz
      · simpa using hrequest
      · rw [hbuf, s.releaseTicket_desc, if_neg hnamed]
  · rw [hidle]
    exact .refl s d

theorem State.passes_takeBeforeReply (s : State) (d : Nat) (e : GapEvent) : s.Passes (s.takeBeforeReply e) d := by
  cases e with
  | sent y => exact s.passes_endBlockSent d y
  | notice => exact s.passes_drain d
  | reply => exact .refl s d

theorem State.passes_endSession (s : State) (d : Nat) (ss : Session) (h : s.engine.session = some ss) :
    s.Passes (s.endSession ss) d := by
  let closing := if ss.outcome = .truncated then resultRecord 0 0 .truncated [] else []
  let t := s.writeResult ss.replyLen closing
  let v := s.buf.desc ss.request
  let b := t.buf.finishReply v.src s.self v.seq (ss.replyLen + closing.length)
  have hwritten : s.Passes { t with buf := b } d := by
    refine State.Passes.of_same rfl rfl ?_ ?_ ?_ (.inl rfl) fun hd _ => ?_
    · simp [b, t, Buffer.finishReply, State.writeResult]
    · simp [b, t, Buffer.finishReply, State.writeResult]
    · simp [b, t, Buffer.finishReply, State.writeResult]
    · have hother : d ≠ Config.replyDesc := Nat.ne_of_lt hd
      show ((t.buf.finishReply v.src s.self v.seq (ss.replyLen + closing.length)).desc d).tickets = _
      rw [Buffer.finishReply, Buffer.desc_modDesc_other _ _ hother, Buffer.putOctets_desc_other _ _ _ hother]
      exact congrArg Descriptor.tickets (Buffer.putOctets_desc_other _ _ _ hother)
  have hfreed : State.Passes { t with buf := b } (s.replyWritten ss) d :=
    State.passes_freeDesc _ d ss.request fun ⟨_, hrequest⟩ => hrequest ss h
  have hgap : (s.replyWritten ss).Passes (s.replyWritten ss).passReplyGap d := by
    have hgaps : (s.replyWritten ss).Passes { s.replyWritten ss with gaps := (s.replyWritten ss).gaps.tail } d :=
      State.Passes.of_same rfl rfl rfl rfl rfl (.inl rfl) fun _ _ => rfl
    exact hgaps.trans (State.Passes.foldl (fun u e => u.passes_takeBeforeReply d e) _ _)
  have hqueued (u : State) (x : Line) : u.Passes (u.replyQueued x) d :=
    (u.passes_enqueueOwn d Config.replyTicket Config.replyDesc x (.inl rfl) (by decide)).trans
      (State.Passes.of_same rfl rfl rfl rfl rfl (.inr rfl) fun _ _ => rfl)
  rw [State.endSession_eq]
  exact ((hwritten.trans hfreed).trans hgap).trans (hqueued _ _)

theorem State.passes_endIfOver (s : State) (d : Nat) : s.Passes s.endIfOver d := by
  unfold State.endIfOver
  split
  next ss hsession =>
    split_ifs
    · exact .refl s d
    · exact s.passes_endSession d ss hsession
  next => exact .refl s d

theorem State.passes_passGap (s : State) (d : Nat) : s.Passes s.passGap d := by
  have hgaps : s.Passes { s with gaps := s.gaps.tail } d :=
    State.Passes.of_same rfl rfl rfl rfl rfl (.inl rfl) fun _ _ => rfl
  refine hgaps.trans (State.Passes.foldl (fun u e => ?_) _ _)
  cases e with
  | sent y => exact u.passes_endBlockSent d y
  | notice => exact u.passes_drain d
  | reply => exact u.passes_endIfOver d

/-! ### One copy, and all of them -/

/-- The copies in the queues and the copies dropped, of all lines. -/
def State.copiesCounted (s : State) : Nat :=
  perLineTotal (fun x => (s.tx.get x).copies) + perLineTotal fun x => (s.count.tx.get x).drops

/-- The tickets of a block and the copies dropped. -/
def State.ticketsCounted (s : State) (d : Nat) : Nat :=
  (s.buf.desc d).tickets + perLineTotal fun x => (s.count.tx.get x).drops

/-- The drops of a line are below their saturation. -/
def State.dropsBelow (s : State) (x : Line) : Prop :=
  (s.count.tx.get x).ticketExhausted < 4294967295 ∧ (s.count.tx.get x).queueFull < 4294967295

theorem State.Passes.drops {s t : State} {d : Nat} (h : s.Passes t d) (x : Line) :
    (t.count.tx.get x).drops = (s.count.tx.get x).drops := by
  rw [TxCounters.drops, TxCounters.drops, h.exhausted, h.full]

theorem State.Passes.copiesCounted {s t : State} {d : Nat} (h : s.Passes t d) : t.copiesCounted = s.copiesCounted := by
  rw [State.copiesCounted, State.copiesCounted, perLineTotal_congr h.copies, perLineTotal_congr h.drops]

theorem State.Passes.ticketsCounted {s t : State} {d : Nat} (h : s.Passes t d) (hd : d < 126) (hs : s.unrelated d) :
    t.ticketsCounted d = s.ticketsCounted d := by
  rw [State.ticketsCounted, State.ticketsCounted, (h.spared hd hs).2, perLineTotal_congr h.drops]

/-- What one copy does to what copies are counted by. -/
structure State.Copied (s t : State) (d : Nat) (x : Line) : Prop where
  once : t.copiesCounted = s.copiesCounted + 1
  ticket : d < s.buf.descs.length → t.ticketsCounted d = s.ticketsCounted d + 1
  others : ∀ y, y ≠ x → s.dropsBelow y → t.dropsBelow y
  own : ∀ k, 190 ≤ k → k ∉ s.buf.freeTickets → k ∉ t.buf.freeTickets
  length : t.buf.descs.length = s.buf.descs.length
  unrelated : s.unrelated d → t.unrelated d
  gaps : t.gaps = s.gaps

theorem State.dropsBelow_countTx (s : State) {x y : Line} (f : TxCounters → TxCounters) (hy : y ≠ x) (h : s.dropsBelow y) :
    (s.countTx x f).dropsBelow y := by
  simpa [State.dropsBelow, PerLine.get_modify_other _ _ hy] using h

theorem perLineTotal_countTx (s : State) (x : Line) (f : TxCounters → TxCounters)
    (hf : (f (s.count.tx.get x)).drops = (s.count.tx.get x).drops + 1) :
    perLineTotal (fun y => ((s.countTx x f).count.tx.get y).drops) =
      perLineTotal (fun y => (s.count.tx.get y).drops) + 1 :=
  perLineTotal_of_one x 1 (by simpa using hf) fun y hy => by simp [PerLine.get_modify_other _ _ hy]

theorem State.copied_of_no_ticket (s : State) (d : Nat) (x : Line) (hbelow : s.dropsBelow x) (h : s.buf.freeTickets = []) :
    s.Copied (s.admitCopy d x) d x := by
  have hdrops := perLineTotal_countTx s x (fun c => { c with ticketExhausted := satAdd c.ticketExhausted 1 }) (by
    obtain ⟨hlt, -⟩ := hbelow
    have hsat : satAdd (s.count.tx.get x).ticketExhausted 1 = (s.count.tx.get x).ticketExhausted + 1 := by
      rw [satAdd, Nat.min_eq_left (by simpa using hlt)]
    simp only [TxCounters.drops, hsat]
    omega)
  rw [s.admitCopy_of_no_ticket d x h]
  refine ⟨?_, fun _ => ?_, fun y hy => s.dropsBelow_countTx _ hy, fun _ _ hk => hk, rfl, id, rfl⟩
  · rw [State.copiesCounted, hdrops]
    rfl
  · rw [State.ticketsCounted, hdrops]
    rfl

/-- Tickets in transmission keep naming other blocks where only a free ticket is set. -/
theorem State.unrelated_of_free {s t : State} {d k : Nat} (h : s.unrelated d) (hk : k ∈ s.buf.freeTickets)
    (htx : ∀ x, (t.tx.get x).ticket = (s.tx.get x).ticket) (htickets : ∀ j, j ≠ k → t.buf.ticket j = s.buf.ticket j)
    (hfree : ∀ j, j ∉ s.buf.freeTickets → j ∉ t.buf.freeTickets) (hsession : t.engine.session = s.engine.session) :
    t.unrelated d := by
  obtain ⟨hsending, hrequest⟩ := h
  refine ⟨fun x j hj => ?_, fun ss hss => hrequest ss (hsession ▸ hss)⟩
  rw [htx] at hj
  obtain ⟨hdesc, hnot, hothers⟩ := hsending x j hj
  have hjk : j ≠ k := fun h => hnot (h ▸ hk)
  rw [htickets j hjk]
  exact ⟨hdesc, hfree j hnot, fun y hy => by rw [htx]; exact hothers y hy⟩

theorem State.copied_of_full (s : State) (d : Nat) (x : Line) (k : Nat) (rest : List Nat) (hbelow : s.dropsBelow x)
    (h : s.buf.freeTickets = k :: rest)
    (hfull : (s.config.get x).limit (s.buf.desc d).cls < s.occupancy x (s.buf.desc d).cls + (s.buf.desc d).chain.length) :
    s.Copied (s.admitCopy d x) d x := by
  have hdrops := perLineTotal_countTx s x (fun c => { c with queueFull := satAdd c.queueFull 1 }) (by
    obtain ⟨-, hlt⟩ := hbelow
    have hsat : satAdd (s.count.tx.get x).queueFull 1 = (s.count.tx.get x).queueFull + 1 := by
      rw [satAdd, Nat.min_eq_left (by simpa using hlt)]
    simp only [TxCounters.drops, hsat]
    omega)
  have hcopies := s.admitCopy_of_full d x k rest h hfull
  have hcount : perLineTotal (fun y => ((s.admitCopy d x).count.tx.get y).drops) =
      perLineTotal (fun y => (s.count.tx.get y).drops) + 1 := by
    rw [hcopies]
    exact hdrops
  have hfree : (s.admitCopy d x).buf.freeTickets = s.buf.freeTickets := by
    rw [hcopies, h]
    rfl
  refine ⟨?_, fun _ => ?_, fun y hy hlow => ?_, fun j _ hj => by rwa [hfree], ?_, fun hs => ?_, by simp⟩
  · rw [State.copiesCounted, hcount, hcopies]
    rfl
  · rw [State.ticketsCounted, hcount, hcopies]
    rfl
  · rw [hcopies]
    exact s.dropsBelow_countTx (fun c => { c with queueFull := satAdd c.queueFull 1 }) hy hlow
  · rw [hcopies]
    rfl
  · refine State.unrelated_of_free hs (k := k) (by simp [h]) (fun y => ?_) (fun j hj => ?_)
      (fun j hj => by rwa [hfree]) (by simp)
    · rw [hcopies]
      rfl
    · rw [hcopies]
      exact s.buf.ticket_modTicket_other _ hj

theorem Egress.copies_enqueue (e : Egress) (c : QClass) (k : Nat) (hreply : k ≠ 190) (hnotice : k ≠ 191) :
    (e.enqueue c k).copies = e.copies + 1 := by
  cases c
  · simp [Egress.copies, Egress.enqueue, hreply, hnotice]
    omega
  · simp [Egress.copies, Egress.enqueue, hreply, hnotice]
    omega

theorem Egress.enqueue_ticket (e : Egress) (c : QClass) (k : Nat) : (e.enqueue c k).ticket = e.ticket := by
  cases c <;> rfl

theorem State.copied_of_room (s : State) (d : Nat) (x : Line) (k : Nat) (rest : List Nat)
    (hreply : 190 ∉ s.buf.freeTickets) (hnotice : 191 ∉ s.buf.freeTickets) (h : s.buf.freeTickets = k :: rest)
    (hroom : s.occupancy x (s.buf.desc d).cls + (s.buf.desc d).chain.length ≤ (s.config.get x).limit (s.buf.desc d).cls) :
    s.Copied (s.admitCopy d x) d x := by
  have hmem : k ∈ s.buf.freeTickets := by simp [h]
  have hcopies := s.admitCopy_of_room d x k rest h hroom
  have hcount : (s.admitCopy d x).count = s.count := by
    rw [hcopies]
    rfl
  have htx (y : Line) : ((s.admitCopy d x).tx.get y) =
      if y = x then (s.tx.get x).enqueue (s.buf.desc d).cls k else s.tx.get y := by
    rw [hcopies]
    by_cases hy : y = x
    · subst hy
      simp
    · simp [hy, PerLine.get_modify_other _ _ hy]
  have hfree (j : Nat) (hj : j ∉ s.buf.freeTickets) : j ∉ (s.admitCopy d x).buf.freeTickets := by
    rw [h] at hj
    rw [hcopies]
    exact fun hmem => hj (List.mem_cons_of_mem k hmem)
  refine ⟨?_, fun hd => ?_, fun y _ hlow => ?_, fun j _ hj => hfree j hj, ?_, fun hs => ?_, by simp⟩
  · have htotal := perLineTotal_of_one (f := fun y => (s.tx.get y).copies)
      (g := fun y => ((s.admitCopy d x).tx.get y).copies) x 1
      (by
        rw [htx, if_pos rfl]
        exact Egress.copies_enqueue _ _ k (fun hk => hreply (hk ▸ hmem)) fun hk => hnotice (hk ▸ hmem))
      fun y hy => by rw [htx, if_neg hy]
    rw [State.copiesCounted, State.copiesCounted, htotal, hcount]
    omega
  · have hdesc : ((s.admitCopy d x).buf.desc d).tickets = (s.buf.desc d).tickets + 1 := by
      rw [hcopies]
      exact congrArg Descriptor.tickets (Buffer.desc_modDesc_same _ d (fun v => { v with tickets := v.tickets + 1 }) hd)
    rw [State.ticketsCounted, State.ticketsCounted, hdesc, hcount]
    omega
  · rwa [State.dropsBelow, hcount]
  · rw [hcopies]
    simp [Buffer.setWaiting]
  · refine State.unrelated_of_free hs hmem (fun y => ?_) (fun j hj => ?_) hfree (by simp)
    · rw [htx]
      split_ifs with hy
      · rw [Egress.enqueue_ticket, hy]
      · rfl
    · rw [hcopies]
      exact Buffer.ticket_modTicket_other { s.buf with freeTickets := rest } (t := k)
        (fun _ => ⟨.waiting, d, x, (s.buf.desc d).cls, 0⟩) hj

/-- A copy is admitted or dropped, and counted once either way. -/
theorem State.copied_admitCopy (s : State) (d : Nat) (x : Line) (hbelow : s.dropsBelow x)
    (hreply : 190 ∉ s.buf.freeTickets) (hnotice : 191 ∉ s.buf.freeTickets) : s.Copied (s.admitCopy d x) d x := by
  cases h : s.buf.freeTickets with
  | nil => exact s.copied_of_no_ticket d x hbelow h
  | cons k rest =>
    rcases Nat.lt_or_ge ((s.config.get x).limit (s.buf.desc d).cls)
      (s.occupancy x (s.buf.desc d).cls + (s.buf.desc d).chain.length) with hfull | hroom
    · exact s.copied_of_full d x k rest hbelow h hfull
    · exact s.copied_of_room d x k rest hreply hnotice h hroom

theorem State.passGap_of_none (s : State) (h : s.gaps = []) : s.passGap = s := by
  rw [State.passGap, h]
  exact congrArg (fun gaps => ({ s with gaps := gaps } : State)) h.symm

/-- Every copy of a list of lines is counted once, in the queues and drops, and in the block's tickets and drops. -/
theorem State.admitCopies_counted (s : State) (d : Nat) (xs : List Line) (hnodup : xs.Nodup)
    (hbelow : ∀ x ∈ xs, s.dropsBelow x) (hreply : 190 ∉ s.buf.freeTickets) (hnotice : 191 ∉ s.buf.freeTickets) :
    (State.admitCopies d xs s).copiesCounted = s.copiesCounted + xs.length ∧
      (d < 126 → d < s.buf.descs.length → s.unrelated d ∨ s.gaps = [] →
        (State.admitCopies d xs s).ticketsCounted d = s.ticketsCounted d + xs.length) := by
  induction xs generalizing s with
  | nil => exact ⟨rfl, fun _ _ _ => rfl⟩
  | cons x xs ih =>
    have hgap := s.passes_passGap d
    have hlow (y : Line) (hy : s.dropsBelow y) : s.passGap.dropsBelow y := by
      rwa [State.dropsBelow, hgap.exhausted, hgap.full]
    have hcopy := s.passGap.copied_admitCopy d x (hlow x (hbelow x (by simp))) (hgap.own 190 (by decide) hreply)
      (hgap.own 191 (by decide) hnotice)
    obtain ⟨hx, hxs⟩ := List.nodup_cons.1 hnodup
    obtain ⟨hcopies, htickets⟩ := ih (s.passGap.admitCopy d x) hxs
      (fun y hy => hcopy.others y (fun h => hx (h ▸ hy)) (hlow y (hbelow y (by simp [hy]))))
      (hcopy.own 190 (by decide) (hgap.own 190 (by decide) hreply))
      (hcopy.own 191 (by decide) (hgap.own 191 (by decide) hnotice))
    rw [State.admitCopies, hcopies, hcopy.once, hgap.copiesCounted, List.length_cons]
    refine ⟨by omega, fun hd hlength hcase => ?_⟩
    have hlength' : d < s.passGap.buf.descs.length := by rwa [hgap.length]
    have hcase' : (s.passGap.admitCopy d x).unrelated d ∨ (s.passGap.admitCopy d x).gaps = [] := by
      rcases hcase with hunrelated | hnone
      · exact .inl (hcopy.unrelated (hgap.spared hd hunrelated).1)
      · exact .inr (hcopy.gaps.trans (by rw [s.passGap_of_none hnone, hnone]))
    have hgapTickets : s.passGap.ticketsCounted d = s.ticketsCounted d := by
      rcases hcase with hunrelated | hnone
      · exact hgap.ticketsCounted hd hunrelated
      · rw [s.passGap_of_none hnone]
    rw [htickets hd (by rwa [hcopy.length]) hcase', hcopy.ticket hlength', hgapTickets]
    omega

theorem LineSet.members_nodup (e : LineSet) : e.members.Nodup := List.Nodup.filter _ (by decide)

/-- Settles O29: by induction on the lines, with a gap before each copy. -/
theorem everyCopyIsCountedOnce : Obligations.EveryCopyIsCountedOnce := by
  unfold Obligations.EveryCopyIsCountedOnce
  intro s d hbelow hreply hnotice
  exact s.admitCopies_counted d _ (LineSet.members_nodup _) (fun x _ => hbelow x) hreply hnotice

end Sys2Proof.Machine

/-! PROOF. The Management Engine's walk and its results (chapter 7): a session taken, the fate of a record, and what is
written of the reply. -/

namespace Sys2Proof.Machine

/-! ### Octets written into a chain that is no longer than it needs to be (R132) -/

/-- The address of stored octet `k` of a descriptor's block. -/
def Buffer.address (b : Buffer) (d k : Nat) : Nat := 64 * (b.desc d).chain.getD (k / 64) 0 + k % 64

theorem Buffer.storedOctet_eq (b : Buffer) (d k : Nat) : b.storedOctet d k = b.mem.read (b.address d k) := rfl

/-- A chain that stays tight takes a cell at the octets that need one, and no more. -/
theorem Buffer.putOctets_tight (b : Buffer) (d k : Nat) (os : List Byte) (m : Nat) (h : b.Ready d k (os.length + m))
    (htight : (b.desc d).chain.length = (k + 63) / 64) :
    ((b.putOctets d k os).desc d).chain.length = (k + os.length + 63) / 64 := by
  induction os generalizing b k with
  | nil => exact htight
  | cons o os ih =>
    have hready : b.Ready d k (os.length + m + 1) := by
      have hlength : (o :: os).length + m = os.length + m + 1 := by simp only [List.length_cons]; omega
      exact hlength ▸ h
    obtain ⟨hready', -, -, ⟨cells, -, -, hchain, hcells⟩, -⟩ := b.putOctet_spec d k (os.length + m) o hready
    have htight' : ((b.putOctet d k o).desc d).chain.length = (k + 1 + 63) / 64 := by
      rw [hchain, List.length_append, hcells]
      split_ifs <;> omega
    have hall := ih (b.putOctet d k o) (k + 1) hready' htight'
    rw [Buffer.putOctets, hall, List.length_cons]
    omega

/-- Octets written are written at their own addresses and at no other. -/
theorem Buffer.putOctets_read_other (b : Buffer) (d k : Nat) (os : List Byte) (m : Nat) (h : b.Ready d k (os.length + m))
    (a : Nat) (ha : ∀ j, k ≤ j → j < k + os.length → (b.putOctets d k os).address d j ≠ a) :
    (b.putOctets d k os).mem.read a = b.mem.read a := by
  induction os generalizing b k with
  | nil => rfl
  | cons o os ih =>
    have hready : b.Ready d k (os.length + m + 1) := by
      have hlength : (o :: os).length + m = os.length + m + 1 := by simp only [List.length_cons]; omega
      exact hlength ▸ h
    obtain ⟨hready', -⟩ := b.putOctet_spec d k (os.length + m) o hready
    obtain ⟨-, -, -, ⟨more, -, -, hchain, -⟩, -⟩ := (b.putOctet d k o).putOctets_spec d (k + 1) os m hready'
    obtain ⟨b1, cells, c, hput, hmem, -, -, -, hcell, -⟩ := b.putOctet_claim d k (os.length + m) o hready
    have hrest := ih (b.putOctet d k o) (k + 1) hready' fun j hj hlt =>
      ha j (by omega) (by simp only [List.length_cons]; omega)
    have hchain1 : ((b.putOctet d k o).desc d).chain = (b1.desc d).chain := by rw [hput]; rfl
    have haddress : (b.putOctets d k (o :: os)).address d k = cellAddress c (k % 64) := by
      have hin : ((b1.desc d).chain ++ more)[k / 64]? = some c := by
        obtain ⟨hlt, -⟩ := List.getElem?_eq_some_iff.1 hcell
        rw [List.getElem?_append_left hlt, hcell]
      rw [Buffer.address, Buffer.putOctets, hchain, hchain1, List.getD_eq_getElem?_getD, hin]
      rfl
    have hne : a ≠ cellAddress c (k % 64) := by
      rw [← haddress]
      exact (ha k (Nat.le_refl k) (by simp)).symm
    rw [Buffer.putOctets, hrest, hput]
    show (b1.mem.write _ o).read a = b.mem.read a
    rw [Memory.read_write_other _ o hne, hmem]

/-! ### The reply (R132) -/

theorem Buffer.replyReady_iff (b : Buffer) (n m : Nat) :
    b.replyReady n m ↔
      b.descs.length = 128 ∧ b.Ready 126 (6 + n) m ∧ (b.desc 126).chain.length = (6 + n + 63) / 64 := by
  constructor
  · rintro ⟨hwf, hlength, hnodup, hcells, htight, hroom⟩
    exact ⟨hlength, ⟨hwf, by omega, hnodup, hcells, by omega, hroom⟩, htight⟩
  · rintro ⟨hlength, ⟨hwf, -, hnodup, hcells, -, hroom⟩, htight⟩
    exact ⟨hwf, hlength, hnodup, hcells, htight, hroom⟩

theorem map_range_getD (os : List Byte) : (List.range os.length).map (fun i => os.getD i 0) = os := by
  refine List.ext_getElem (by simp) fun i h1 h2 => ?_
  simp [List.getD_eq_getElem?_getD, h2]

/-- What `os` written behind the reply text so far leaves. -/
theorem Buffer.writeReply_spec (b : Buffer) (n m : Nat) (os : List Byte) (h : b.replyReady n (os.length + m)) :
    (b.putOctets 126 (6 + n) os).replyText (n + os.length) = b.replyText n ++ os ∧
      (b.putOctets 126 (6 + n) os).replyReady (n + os.length) m := by
  obtain ⟨hlength, hready, htight⟩ := (b.replyReady_iff n _).1 h
  obtain ⟨hready', hwritten, hkept, -, -⟩ := b.putOctets_spec 126 (6 + n) os m hready
  refine ⟨?_, (Buffer.replyReady_iff _ _ m).2 ⟨by simpa using hlength, ?_, ?_⟩⟩
  · have hbefore : (List.range n).map (fun i => (b.putOctets 126 (6 + n) os).storedOctet 126 (6 + i)) = b.replyText n :=
      List.map_congr_left fun i hi => hkept (6 + i) (.inl (by rw [List.mem_range] at hi; omega))
    have hafter : (List.range os.length).map (fun i => (b.putOctets 126 (6 + n) os).storedOctet 126 (6 + (n + i))) = os := by
      refine Eq.trans (List.map_congr_left fun i hi => ?_) (map_range_getD os)
      rw [← Nat.add_assoc]
      exact hwritten i (List.mem_range.1 hi)
    rw [Buffer.replyText, List.range_add, List.map_append, List.map_map]
    exact congrArg₂ (· ++ ·) hbefore hafter
  · rwa [← Nat.add_assoc]
  · rw [b.putOctets_tight 126 (6 + n) os m hready htight, Nat.add_assoc 6 n]

theorem State.writesReply_of_ready (s t : State) (n m : Nat) (os : List Byte)
    (h : s.buf.replyReady n (os.length + m)) (hbuf : t.buf = s.buf.putOctets 126 (6 + n) os) :
    s.writesReply t (6 + n) os.length := by
  obtain ⟨hlength, hready, htight⟩ := (s.buf.replyReady_iff n _).1 h
  obtain ⟨-, -, -, ⟨cells, hpart, hdescs, -, -⟩, -⟩ := s.buf.putOctets_spec 126 (6 + n) os m hready
  refine ⟨⟨cells, by rw [hbuf]; exact hpart, by rw [hbuf]; exact hdescs⟩, ?_, fun a ha => ?_⟩
  · obtain ⟨hcells, hfree, htickets, hfreeTickets, hhwCells, hhwDescs, harmed, -⟩ := s.buf.putOctets_kept 126 (6 + n) os
    rw [hbuf]
    generalize s.buf.putOctets 126 (6 + n) os = b at *
    cases b
    simp only at *
    simp only [hcells, hfree, htickets, hfreeTickets, hhwCells, hhwDescs, harmed]
  · rw [hbuf] at ha ⊢
    exact s.buf.putOctets_read_other 126 (6 + n) os m hready a ha

/-! ### A session taken (R125) -/

/-- Settles O35: the reply descriptor takes its first partition cell, and the walk begins. -/
theorem sessionIsTaken : Obligations.SessionIsTaken := by
  unfold Obligations.SessionIsTaken
  intro s d c rest cells x hlow hidle hfree hqueue hpart hingress
  have hnoReset : s.reinitDue = false := by simp [State.reinitDue, hidle]
  have htakes : s.takeDue = true := by
    have hfree' : (s.buf.desc Config.replyDesc).state = .free := hfree
    simp [State.takeDue, hidle, hfree', hqueue]
  have hexec : exec .sessionTake s = .next s.takeSession := by
    rw [exec, execSessionTake, if_neg (by simp [hlow]), State.reinitIfDue, if_neg (by simp [hnoReset]), State.takeIfDue,
      if_pos htakes]
  have hbuf : s.buf.takeReply (s.ingressOf d) =
      { s.buf with
        freePart := cells
        descs := s.buf.descs.modify 126 fun v =>
          { v with
            state := .building, origin := .reply, ingress := none, mark := false, cls := .urgent
            egress := ⟨x = .a, x = .b, x = .l⟩, chain := v.chain ++ [c] } } := by
    rw [Buffer.takeReply, Buffer.claimPart_cons _ _ c cells (by simpa using hpart), State.ingressOf, hingress]
    simp only [Buffer.modDesc, List.modify_modify_eq]
    rfl
  have hwalk : walkAt 1 (s.buf.desc d).len = if (s.buf.desc d).len = 0 then .ended else .walking := by
    rw [walkAt]
    exact if_congr (by omega) rfl rfl
  refine ⟨s.takeSession, hexec, ?_, fun hheld hchain htickets hbound => ?_⟩
  · rw [State.takeSession, hqueue]
    simp only [hbuf, hwalk]
    rfl
  · have hdesc : s.takeSession.buf.desc 126 =
        { s.buf.desc 126 with
          state := .building, origin := .reply, ingress := none, mark := false, cls := .urgent
          egress := ⟨x = .a, x = .b, x = .l⟩, chain := (s.buf.desc 126).chain ++ [c] } := by
      rw [State.takeSession, hqueue]
      simp only [hbuf]
      exact Buffer.desc_modDesc_same { s.buf with freePart := cells } 126 (fun v =>
        { v with
          state := .building, origin := .reply, ingress := none, mark := false, cls := .urgent
          egress := ⟨x = .a, x = .b, x = .l⟩, chain := v.chain ++ [c] }) hheld
    rw [hdesc]
    simp only [hchain, htickets, hbound, List.nil_append]

/-! ### The fate of a record (R128) -/

/-- The rows of the request table (section 1.7.4): PLEN and the largest result record. -/
def requestRows : List (Nat × Nat) :=
  [(0, 14), (13, 4), (1, 18), (1, 4), (2, 6), (4, 4), (8, 5), (10, 4), (3, 5), (1, 16), (2, 5), (3, 58), (5, 4), (1, 4),
    (0, 4), (0, 4)]

/-- The request codes are 1 to 16. -/
theorem requestTable_eq (code : Byte) :
    requestTable code =
      if 1 ≤ code.toNat ∧ code.toNat ≤ 16 then some (requestRows.getD (code.toNat - 1) (0, 4)) else none := by
  revert code
  decide +kernel

/-- Settles O36: the steps of R128 in order. -/
theorem recordFateByTheSteps : Obligations.RecordFateByTheSteps := by
  unfold Obligations.RecordFateByTheSteps
  intro s ss hpos left code tag plen params table known row largest
  have hleft : 1 ≤ left := by omega
  have htag : s.buf.textOctet ss.request (ss.position + 1) = tag := by
    simp only [Buffer.textOctet, tag, show 5 + (ss.position + 1) = 6 + ss.position by omega]
  have hplen : (s.buf.textOctet ss.request (ss.position + 2)).toNat = plen := by
    simp only [Buffer.textOctet, plen, show 5 + (ss.position + 2) = 7 + ss.position by omega]
  have hparams : s.buf.params ss.request ss.position plen = params := by
    refine List.map_congr_left fun i _ => ?_
    simp only [Buffer.textOctet, show 5 + (ss.position + 3 + i) = 8 + ss.position + i by omega]
  have hlargest : largestResult (s.engine.state = .reinitPending) code = largest := by
    simp only [largestResult, requestTable_eq, largest, known, row, table, requestRows, decide_eq_true_eq]
    split_ifs <;> rfl
  have hcode : s.buf.textOctet ss.request ss.position = code := rfl
  rw [State.fateOf, hcode, htag, hplen, hparams]
  change (if ss.results = 16 then _ else if left < 3 + (if left < 3 then 0 else plen) then
    Fate.malformed (if left < 1 then 0 else code) (if left < 2 then 0 else tag)
    else if 378 < ss.replyLen + largestResult (s.engine.state = .reinitPending) code + 4 then _ else _) = _
  rw [hlargest, if_neg (Nat.not_lt.2 hleft)]
  by_cases hresults : ss.results = 16
  · rw [if_pos hresults, if_pos hresults]
  rw [if_neg hresults, if_neg hresults]
  by_cases hhead : left < 3
  · rw [if_pos (show left < 3 + (if left < 3 then 0 else plen) by omega), if_pos hhead]
    exact congrArg (Fate.malformed code) (if_congr (by omega) rfl rfl)
  rw [if_neg hhead, if_neg hhead]
  by_cases hbody : left - 3 < plen
  · rw [if_pos (show left < 3 + plen by omega), if_pos hbody, if_neg (by omega)]
  rw [if_neg hbody, if_neg (show ¬left < 3 + plen by omega)]
  by_cases hroom : 378 < ss.replyLen + largest + 4
  · rw [if_pos hroom, if_pos hroom]
  rw [if_neg hroom, if_neg hroom]
  by_cases hreinit : s.engine.state = .reinitPending
  · rw [if_pos (decide_eq_true hreinit), if_pos hreinit]
  rw [if_neg (by simpa using hreinit), if_neg hreinit, requestTable_eq]
  by_cases hknown : known
  · rw [if_pos hknown, if_neg (not_not.2 hknown)]
    exact (ite_not _ _ _).symm
  · rw [if_neg hknown, if_pos hknown]

/-! ### Results written (R132) -/

theorem Status.executed_iff (status : Status) : status.executed = true ↔ status.code.toNat ≤ 8 := by
  cases status <;> decide

theorem resultRecord_length (code tag : Byte) (status : Status) (data : List Byte) :
    (resultRecord code tag status data).length = 4 + data.length := by
  simp [resultRecord]
  omega

theorem State.changesOnly_writeResult (s : State) (n : Nat) (os : List Byte) :
    s.changesOnly (s.writeResult n os) [.cells, .pools, .descs] := by
  intro p hp
  cases p
  case cells | pools | descs => simp at hp
  all_goals simp [Part.same, State.writeResult]

theorem State.changesOnly_withSession (s : State) (ss : Session) : s.changesOnly (s.withSession ss) [.engine] := by
  intro p hp
  cases p
  case engine => simp at hp
  all_goals simp [Part.same, State.withSession]

theorem State.writeResult_buf (s : State) (n : Nat) (os : List Byte) :
    (s.writeResult n os).buf = s.buf.putOctets 126 (6 + n) os := rfl

/-- An answer in a session: the record written, the walk past it, and the count. -/
theorem State.answer_of_session (s : State) (ss : Session) (h : RecordHead) (status : Status) (data : List Byte)
    (hsession : s.engine.session = some ss) :
    s.answer h status data =
      ((s.writeResult ss.replyLen (resultRecord h.code h.tag status data)).withSession
        { ss.wrote (4 + data.length) with
          position := ss.position + 3 + h.plen
          outcome := walkAt (ss.position + 3 + h.plen) (s.buf.desc ss.request).len }).countEngine fun c =>
        if status.executed then { c with executed := satAdd c.executed 1 } else c := by
  simp only [State.answer, hsession, resultRecord_length]

/-- Settles O37: the result record stands behind the reply text, and the walk has passed the record. -/
theorem answerWritesAResultRecord : Obligations.AnswerWritesAResultRecord := by
  unfold Obligations.AnswerWritesAResultRecord
  intro s ss h status data hsession hdata hready t pos code
  have hcode : status.code = code := by cases status <;> rfl
  have ht : t = _ := s.answer_of_session ss h status data hsession
  let os := resultRecord h.code h.tag status data
  have hos : os.length = 4 + data.length := resultRecord_length ..
  have hready' : s.buf.replyReady ss.replyLen (os.length + 0) := by rwa [hos]
  have hbuf : t.buf = s.buf.putOctets 126 (6 + ss.replyLen) os := by
    simp only [ht, State.countEngine_kept, State.withSession_kept, State.writeResult_buf, os]
  obtain ⟨htext, hnext⟩ := s.buf.writeReply_spec ss.replyLen 0 os hready'
  have hwrites := s.writesReply_of_ready t ss.replyLen 0 os hready' hbuf
  have hdlen : loOctet data.length = BitVec.ofNat 8 data.length := rfl
  rw [← hbuf, hos, ← Nat.add_assoc] at htext hnext
  rw [hos] at hwrites
  refine ⟨?_, hnext, hwrites, ?_, ?_, ?_⟩
  · rw [htext, List.append_assoc, ← hcode, ← hdlen]
    rfl
  · rw [ht]
    simp only [State.countEngine_kept, State.withSession, Session.wrote, walkAt, State.writeResult_kept,
      ← Nat.add_assoc, pos]
  · have hiff := status.executed_iff
    rw [hcode] at hiff
    rw [ht]
    simp only [State.countEngine_count, hiff]
    rfl
  · rw [ht]
    exact State.changesOnly_mono
      (State.changesOnly_trans
        (State.changesOnly_trans (s.changesOnly_writeResult ss.replyLen os) (State.changesOnly_withSession _ _))
        (State.changesOnly_countEngine _ _)) (by simp)

/-! ### Records that are not carried out (R128, R129, R131) -/

/-- A step of the engine's own that finds a session walking acts on the part as it stands. -/
theorem State.atRecord_of_walks (s : State) (ss : Session) (f : Fate) (step : State → State) (h : s.walks ss f) :
    s.atRecord step = step s := by
  obtain ⟨hquiet, hflushed, -⟩ := h
  exact s.atRecord_of_quiet _ hquiet hflushed

/-- Settles O38: the three answered fates, the truncated walk, and the MALFORMED record. -/
theorem recordsThatAreNotCarriedOut : Obligations.RecordsThatAreNotCarriedOut := by
  unfold Obligations.RecordsThatAreNotCarriedOut
  intro s ss
  refine ⟨fun h hwalks => ?_, fun h hwalks => ?_, fun h hwalks => ?_, fun hwalks => ?_, fun code tag hwalks hready => ?_⟩
  · rw [exec, execSkippedRecord, s.atRecord_of_walks ss _ _ hwalks, s.nextRecord_of_walks ss _ hwalks]
  · rw [exec, execUnknownRequestRecord, s.atRecord_of_walks ss _ _ hwalks, s.nextRecord_of_walks ss _ hwalks]
  · rw [exec, execBadLengthRecord, s.atRecord_of_walks ss _ _ hwalks, s.nextRecord_of_walks ss _ hwalks]
  · rw [exec, execWalkTruncation, s.atRecord_of_walks ss _ _ hwalks, s.nextRecord_of_walks ss _ hwalks]
    rfl
  · let os := resultRecord code tag .malformed []
    have hready' : s.buf.replyReady ss.replyLen (os.length + 0) := hready
    have hbuf : (s.answerMalformed ss code tag).buf = s.buf.putOctets 126 (6 + ss.replyLen) os := by
      rw [State.answerMalformed, ← State.writeResult_buf]
      simp only [State.withSession_kept, os]
    obtain ⟨htext, hnext⟩ := s.buf.writeReply_spec ss.replyLen 0 os hready'
    rw [← hbuf] at htext hnext
    refine ⟨s.answerMalformed ss code tag, ?_, htext, hnext, s.writesReply_of_ready _ ss.replyLen 0 os hready' hbuf, ?_, ?_⟩
    · rw [exec, execMalformedRecord, s.atRecord_of_walks ss _ _ hwalks, s.nextRecord_of_walks ss _ hwalks]
    · simp [State.answerMalformed, State.withSession, Session.wrote]
    · exact State.changesOnly_mono
        (State.changesOnly_trans (s.changesOnly_writeResult ss.replyLen os) (State.changesOnly_withSession _ _)) (by simp)

end Sys2Proof.Machine

/-! PROOF. The session's end (R133): the reply's header, its text and its place in the queue. -/

namespace Sys2Proof.Machine

/-! ### The reply's header (R133) -/

theorem Buffer.replyReady_mono {b : Buffer} {n m m' : Nat} (h : b.replyReady n m) (hm : m' ≤ m) :
    b.replyReady n m' := by
  obtain ⟨hwf, hlength, hnodup, hcells, htight, hroom⟩ := h
  exact ⟨hwf, hlength, hnodup, hcells, htight, by omega⟩

theorem Buffer.storedOctet_congr {b b' : Buffer} {d : Nat} (k : Nat) (hmem : b'.mem = b.mem)
    (hchain : (b'.desc d).chain = (b.desc d).chain) : b'.storedOctet d k = b.storedOctet d k := by
  rw [Buffer.storedOctet, Buffer.storedOctet, hmem, hchain]

theorem Buffer.replyText_congr {b b' : Buffer} (n : Nat)
    (h : ∀ i, i < n → b'.storedOctet 126 (6 + i) = b.storedOctet 126 (6 + i)) :
    b'.replyText n = b.replyText n :=
  List.map_congr_left fun i hi => h i (List.mem_range.1 hi)

theorem Buffer.replyReady_congr {b b' : Buffer} {n m : Nat} (h : b.replyReady n m) (hwf : b'.mem.wf = true)
    (hlength : b'.descs.length = b.descs.length) (hchain : (b'.desc 126).chain = (b.desc 126).chain)
    (hpart : b'.freePart = b.freePart) : b'.replyReady n m := by
  obtain ⟨-, hlen, hnodup, hcells, htight, hroom⟩ := h
  rw [← hchain, ← hpart] at hnodup hcells hroom
  rw [← hchain] at htight
  exact ⟨hwf, hlength.trans hlen, hnodup, hcells, htight, hroom⟩

section

variable (b : Buffer) (os : List Byte) (n m : Nat) (hos : os.length = 6) (h : b.replyReady n m)

include hos h

/-- The header takes no cell: the reply's first holds it. -/
theorem Buffer.putHeader_spec :
    (b.putOctets 126 0 os).mem.wf = true ∧ (∀ k, k < 6 → (b.putOctets 126 0 os).storedOctet 126 k = os.getD k 0) ∧
      (∀ i, i < n → (b.putOctets 126 0 os).storedOctet 126 (6 + i) = b.storedOctet 126 (6 + i)) ∧
      (b.putOctets 126 0 os).freePart = b.freePart ∧ (b.putOctets 126 0 os).descs = b.descs ∧
      ∀ a, (∀ k, k < 6 → b.address 126 k ≠ a) → (b.putOctets 126 0 os).mem.read a = b.mem.read a := by
  obtain ⟨hwf, hlength, hnodup, hcells, htight, hroom⟩ := h
  have hready : b.Ready 126 0 (os.length + 0) := ⟨hwf, by omega, hnodup, hcells, by omega, by omega⟩
  obtain ⟨hready', hwritten, hkept, ⟨cells, hpart, hdescs, hchain, hnone⟩, -⟩ := b.putOctets_spec 126 0 os 0 hready
  have hno : cells = [] := hnone (by omega)
  rw [hno, List.append_nil] at hchain
  rw [hno] at hdescs hpart
  have hother (a : Nat) (ha : ∀ k, k < 6 → b.address 126 k ≠ a) : (b.putOctets 126 0 os).mem.read a = b.mem.read a := by
    refine b.putOctets_read_other 126 0 os 0 hready a fun j _ hj => ?_
    rw [Buffer.address, hchain]
    exact ha j (by omega)
  refine ⟨hready'.wf, fun k hk => ?_, fun i hi => hkept (6 + i) (.inr (by omega)), hpart.symm, ?_, hother⟩
  · have hk' := hwritten k (by omega)
    rwa [Nat.zero_add] at hk'
  · exact hdescs.trans (Buffer.modify_chain_nil b.descs 126).symm

/-- The header written and the descriptor set: the text stays, and the chain. -/
theorem Buffer.headed_spec (f : Descriptor → Descriptor) (hf : ∀ v, (f v).chain = v.chain) :
    let b' := (b.putOctets 126 0 os).modDesc 126 f
    b'.replyText n = b.replyText n ∧ b'.replyReady n m ∧ (∀ k, k < 6 → b'.storedOctet 126 k = os.getD k 0) ∧
      b'.freePart = b.freePart ∧ b'.desc 126 = f (b.desc 126) ∧ (∀ d, d ≠ 126 → b'.desc d = b.desc d) ∧
      ∀ a, (∀ k, k < 6 → b'.address 126 k ≠ a) → b'.mem.read a = b.mem.read a := by
  obtain ⟨hwf, hheader, htext, hpart, hdescs, hother⟩ := b.putHeader_spec os n m hos h
  obtain ⟨-, hlength, -⟩ := id h
  generalize b.putOctets 126 0 os = put at *
  intro b'
  have hput (d : Nat) : put.desc d = b.desc d := by rw [Buffer.desc, hdescs, Buffer.desc]
  have hdesc : b'.desc 126 = f (b.desc 126) := by
    rw [Buffer.desc_modDesc_same put 126 f (by rw [hdescs, hlength]; decide), hput]
  have hchain : (b'.desc 126).chain = (b.desc 126).chain := by rw [hdesc, hf]
  have hstored (k : Nat) : b'.storedOctet 126 k = put.storedOctet 126 k :=
    Buffer.storedOctet_congr k rfl (by rw [hchain, hput])
  refine ⟨Buffer.replyText_congr n fun i hi => (hstored _).trans (htext i hi),
    Buffer.replyReady_congr h hwf (by simp [b', hdescs]) hchain hpart, fun k hk => (hstored k).trans (hheader k hk), hpart,
    hdesc, fun d hd => (put.desc_modDesc_other f hd).trans (hput d), fun a ha => hother a fun k hk => ?_⟩
  have hak := ha k hk
  rwa [Buffer.address, hchain] at hak

end

/-- What the reply's writing leaves of the rest of the buffer. -/
def Buffer.restKept (b b' : Buffer) : Prop :=
  b'.freeCells = b.freeCells ∧ b'.freeDescs = b.freeDescs ∧ b'.tickets = b.tickets ∧ b'.freeTickets = b.freeTickets ∧
    b'.hwCells = b.hwCells ∧ b'.hwDescs = b.hwDescs ∧ b'.lowArmed = b.lowArmed

theorem Buffer.restKept_putOctets (b : Buffer) (d k : Nat) (os : List Byte) : b.restKept (b.putOctets d k os) := by
  simp [Buffer.restKept]

theorem Buffer.restKept_trans {a b c : Buffer} (hab : a.restKept b) (hbc : b.restKept c) : a.restKept c := by
  obtain ⟨h1, h2, h3, h4, h5, h6, h7⟩ := hab
  obtain ⟨k1, k2, k3, k4, k5, k6, k7⟩ := hbc
  exact ⟨k1.trans h1, k2.trans h2, k3.trans h3, k4.trans h4, k5.trans h5, k6.trans h6, k7.trans h7⟩

/-- A closing record written behind the text, and then the header, with the descriptor set. -/
theorem Buffer.closed_spec (b : Buffer) (closing os : List Byte) (n : Nat) (f : Descriptor → Descriptor)
    (hos : os.length = 6) (hf : ∀ v, (f v).chain = v.chain) (h : b.replyReady n (closing.length + 0)) :
    let b' := ((b.putOctets 126 (6 + n) closing).putOctets 126 0 os).modDesc 126 f
    b'.replyText (n + closing.length) = b.replyText n ++ closing ∧ b'.replyReady (n + closing.length) 0 ∧
      (∀ k, k < 6 → b'.storedOctet 126 k = os.getD k 0) ∧
      (∃ cells, b.freePart = cells ++ b'.freePart ∧
        b'.desc 126 = f { b.desc 126 with chain := (b.desc 126).chain ++ cells }) ∧
      (∀ d, d ≠ 126 → b'.desc d = b.desc d) ∧
      (∀ a, (∀ k, k < 6 ∨ (6 + n ≤ k ∧ k < 6 + (n + closing.length)) → b'.address 126 k ≠ a) →
        b'.mem.read a = b.mem.read a) ∧
      b.restKept b' := by
  obtain ⟨htext, hready⟩ := b.writeReply_spec n 0 closing h
  obtain ⟨hlength, hready0, -⟩ := (b.replyReady_iff n _).1 h
  obtain ⟨-, -, -, ⟨cells, hpart, hdescs, -, -⟩, -⟩ := b.putOctets_spec 126 (6 + n) closing 0 hready0
  have hread := b.putOctets_read_other 126 (6 + n) closing 0 hready0
  have hother (d : Nat) (hd : d ≠ 126) := b.putOctets_desc_other (n := d) (6 + n) closing hd
  have hkept := b.restKept_putOctets 126 (6 + n) closing
  have hdesc : (b.putOctets 126 (6 + n) closing).desc 126 = { b.desc 126 with chain := (b.desc 126).chain ++ cells } := by
    rw [Buffer.desc, hdescs]
    exact b.desc_modDesc_same 126 (fun v => { v with chain := v.chain ++ cells }) (by omega)
  generalize b.putOctets 126 (6 + n) closing = put at *
  intro b'
  obtain ⟨htext', hready', hheader, hpart', hdesc', hother', hread'⟩ := put.headed_spec os _ 0 hos hready f hf
  refine ⟨htext'.trans htext, hready', hheader, ⟨cells, ?_, hdesc'.trans (congrArg f hdesc)⟩,
    fun d hd => (hother' d hd).trans (hother d hd), fun a ha => ?_, ?_⟩
  · rw [hpart', hpart]
  · have haddress (k : Nat) : b'.address 126 k = put.address 126 k := by
      rw [Buffer.address, Buffer.address, hdesc', hf]
    rw [hread' a fun k hk => ha k (.inl hk)]
    exact hread a fun k hk hlt => haddress k ▸ ha k (.inr ⟨hk, by omega⟩)
  · exact Buffer.restKept_trans hkept (put.restKept_putOctets 126 0 os)

/-! ### The session's end (R133) -/

theorem Buffer.freeDesc_storedOctet_other (b : Buffer) {r d : Nat} (k : Nat) (h : d ≠ r) :
    (b.freeDesc r).1.storedOctet d k = b.storedOctet d k :=
  Buffer.storedOctet_congr k (by simp) (congrArg Descriptor.chain (b.freeDesc_desc_other h))

theorem State.changesOnly_buf (s : State) (b : Buffer) (h : b.tickets = s.buf.tickets) :
    s.changesOnly { s with buf := b } [.cells, .pools, .descs] := by
  intro p hp
  cases p
  case cells | pools | descs => simp at hp
  case tickets => exact h
  all_goals simp [Part.same]

/-- A descriptor of the general pool freed, where the rest of the buffer is as it was. -/
theorem State.freeRequest_spec (s : State) (b : Buffer) (r : Nat) (hr : r < 126) (hrequested : b.desc r = s.buf.desc r)
    (hrest : s.buf.restKept b) :
    let m := State.freeDesc { s with buf := b } r
    let v := s.buf.desc r
    m.buf.desc r = { v with state := .free, chain := [], tickets := 0, bound := .none } ∧
      m.buf.freeDescs = s.buf.freeDescs ++ [r] ∧ m.buf.freeCells = s.buf.freeCells ++ v.chain ∧
      m.buf.freeTickets = s.buf.freeTickets ∧ m.buf.hwCells = s.buf.hwCells ∧ m.buf.hwDescs = s.buf.hwDescs ∧
      m.buf.lowArmed =
        (s.buf.lowArmed || decide (s.buf.freeCells.length ≤ 96 ∧ 96 < s.buf.freeCells.length + v.chain.length)) ∧
      m.emitter = s.emitter.hear (s.buf.freedEvents r) ∧ s.changesOnly m [.cells, .pools, .descs, .emitter] ∧
      m.buf.mem = b.mem ∧ m.buf.freePart = b.freePart ∧ (∀ n, n ≠ r → m.buf.desc n = b.desc n) ∧
      m.buf.descs.length = b.descs.length := by
  obtain ⟨hfreeCells, hfreeDescs, htickets, hfreeTickets, hhwCells, hhwDescs, harmed⟩ := hrest
  intro m v
  have hfrees : State.frees { s with buf := b } m r true := State.frees_freeDesc { s with buf := b } r
  obtain ⟨hcells, hdescs, hparts, hemitter⟩ := State.frees_general hfrees hr
  obtain ⟨-, -, -, hfreed, hothers, harms, -, hmarkCells, hmarkDescs⟩ := hfrees
  obtain ⟨hmem, -, hlist, -⟩ := b.freeDesc_kept r
  have hchain : (b.desc r).chain = v.chain := congrArg Descriptor.chain hrequested
  have hcells' : m.buf.freeCells = s.buf.freeCells ++ v.chain := by
    rw [hcells, ← hchain, ← hfreeCells]
  refine ⟨?_, ?_, hcells', hlist.trans hfreeTickets, hmarkCells.trans hhwCells, hmarkDescs.trans hhwDescs, ?_, ?_, ?_, hmem,
    hparts, hothers, (b.freeDesc_kept r).2.2.2.2.2⟩
  · rw [hfreed rfl]
    exact congrArg Descriptor.freed hrequested
  · rw [hdescs, ← hfreeDescs]
  · rw [harms, Buffer.armed, hcells', List.length_append]
    change (b.lowArmed || decide (b.freeCells.length ≤ 96 ∧ _)) = _
    rw [harmed, hfreeCells]
  · rw [hemitter]
    exact congrArg s.emitter.hear (Buffer.freedEvents_of_same hchain hfreeCells harmed)
  · exact State.changesOnly_mono (State.changesOnly_trans (s.changesOnly_buf b htickets)
      (State.changesOnly_freeDesc { s with buf := b } r)) (by simp)

theorem State.replyQueued_eq (g : State) (s : State) (x : Line) (hengine : g.engine = s.engine) :
    g.replyQueued x =
      { g with
        engine :=
          { s.engine with
            session := none, state := if s.engine.state = .executing then .idle else s.engine.state }
        tx := g.tx.set x { g.tx.get x with urgent := (g.tx.get x).urgent ++ [190] }
        buf :=
          { g.buf with
            tickets := g.buf.tickets.modify 190 fun _ => ⟨.waiting, 126, x, .urgent, 0⟩
            descs := g.buf.descs.modify 126 fun v => { v with state := .queued, tickets := 1 } } } := by
  rw [State.replyQueued, hengine]
  rfl

/-- Settles O39: the closing record, the header, the request freed, the gap, and the reply's place in the queue. -/
theorem sessionEndQueuesTheReply : Obligations.SessionEndQueuesTheReply := by
  unfold Obligations.SessionEndQueuesTheReply
  intro s ss x hquiet hflushed hsession hover hrequest hingress hlen hready r closing len header
  have hclosing : (if ss.outcome = .truncated then resultRecord 0 0 .truncated [] else []) = closing := rfl
  have hfour : closing.length ≤ 4 := by
    simp only [closing]
    split_ifs <;> decide
  let f : Descriptor → Descriptor := fun v =>
    { v with dst := r.src, src := s.self, kind := Config.kindReply, seq := r.seq, len, txDst := r.src }
  obtain ⟨htext, hready', hheader, ⟨cells, hpart, hreply⟩, hother, hread, hrest⟩ :=
    s.buf.closed_spec closing header ss.replyLen f rfl (fun _ => rfl) (Buffer.replyReady_mono hready (by omega))
  have hwritten : s.replyWritten ss = State.freeDesc { s with buf :=
      ((s.buf.putOctets 126 (6 + ss.replyLen) closing).putOctets 126 0 header).modDesc 126 f } ss.request := by
    rw [State.replyWritten, hclosing]
    rfl
  generalize ((s.buf.putOctets 126 (6 + ss.replyLen) closing).putOctets 126 0 header).modDesc 126 f = b at *
  have hne : (126 : Nat) ≠ ss.request := by omega
  obtain ⟨hfreed, hfreeDescs, hfreeCells, hfreeTickets, hhwCells, hhwDescs, harmed, hemitter, hframe, hmem, hparts, hothers,
    hlength⟩ := s.freeRequest_spec b ss.request hrequest (hother ss.request hne.symm) hrest
  generalize State.freeDesc { s with buf := b } ss.request = m at *
  have hdesc126 : m.buf.desc 126 = b.desc 126 := hothers 126 hne
  have hchain : (m.buf.desc 126).chain = (b.desc 126).chain := by rw [hdesc126]
  have hstored (k : Nat) : m.buf.storedOctet 126 k = b.storedOctet 126 k := Buffer.storedOctet_congr k hmem hchain
  refine ⟨m, (Buffer.replyText_congr len fun i _ => hstored (6 + i)).trans htext,
    Buffer.replyReady_congr hready' (hmem ▸ hready'.1) hlength hchain hparts, fun k hk => (hstored k).trans (hheader k hk),
    ⟨cells, hpart.trans (congrArg (cells ++ ·) hparts.symm), hdesc126.trans hreply⟩, hfreed, hfreeDescs, hfreeCells,
    hfreeTickets, hhwCells, hhwDescs, harmed, fun a ha => ?read, fun n hn hnr => (hothers n hnr).trans (hother n hn),
    hemitter, hframe, ?exec⟩
  case read =>
    rw [hmem]
    refine hread a fun k hk => ?_
    have hak := ha k hk
    rwa [Buffer.replyAddress, hchain] at hak
  case exec =>
    have hover' : ¬(ss.outcome = .walking ∨ s.unflushed ≠ []) := by simp [hover, hflushed]
    have hline : s.ingressOf ss.request = x := by rw [State.ingressOf, hingress]; rfl
    have hgaps : m.gaps = s.gaps := hframe .gaps (by simp)
    have hengine : m.engine = s.engine := hframe .engine (by simp)
    have hkept : m.passReplyGap.engine = s.engine := by simp [hengine]
    have hexec : exec .sessionEnd s = .next (m.passReplyGap.replyQueued x) := by
      rw [exec, execSessionEnd, s.atRecord_of_quiet _ hquiet hflushed, State.endIfOver, hsession]
      dsimp only
      rw [if_neg hover', State.endSession_eq, hwritten, hline]
    rw [hexec, State.replyQueued_eq _ s x hkept, State.passReplyGap, hgaps]
    rfl

end Sys2Proof.Machine

/-! PROOF. What is due: the commands as steps of the running part, the settled part, and what the emitter records
(chapters 9 and 11, R125, R137, R170 to R172, R181). -/

namespace Sys2Proof.Machine

/-! ### Commands as steps of the running part -/

/-- Every command but RESET's two and those that take what is due is a step of the running part. -/
theorem exec_runs (c : Instr) (h : c ∉ [Instr.hardwareReset, .resetNegated, .sessionTake, .reinitReset, .noticeBuild]) :
    ∃ f : State → State, ∀ s, exec c s = .next (s.running f) := by
  cases c
  case hardwareReset | resetNegated | sessionTake | reinitReset | noticeBuild => simp at h
  all_goals exact ⟨_, fun _ => rfl⟩

theorem exec_sessionTake_of_low (s : State) (h : s.resetHigh = false) :
    exec .sessionTake s = .next s.reinitIfDue.takeIfDue := by
  rw [exec, execSessionTake, if_neg (by simp [h])]

theorem exec_noticeBuild_of_low (s : State) (h : s.resetHigh = false) :
    exec .noticeBuild s = .next s.reinitIfDue.buildNow := by
  rw [exec, execNoticeBuild, if_neg (by simp [h])]

/-- Settles O5: while RESET is high a step of the running part is none, and its fall starts the part. -/
theorem resetHoldsAndStartsThePart : Obligations.ResetHoldsAndStartsThePart := by
  unfold Obligations.ResetHoldsAndStartsThePart
  refine ⟨fun c s hreset hhard hneg => ?_, fun s => ⟨fun hreset => ?_, fun hlow => ?_⟩⟩
  · by_cases hdue : c ∈ [Instr.sessionTake, .reinitReset, .noticeBuild]
    · simp only [List.mem_cons, List.not_mem_nil, or_false] at hdue
      rcases hdue with rfl | rfl | rfl
      · rw [exec, execSessionTake, if_pos hreset]
      · rw [exec, execReinitReset, if_pos hreset]
      · rw [exec, execNoticeBuild, if_pos hreset]
    · obtain ⟨f, hf⟩ := exec_runs c (by simp_all)
      rw [hf, s.running_of_reset f hreset]
  · rw [exec, execResetNegated, if_pos hreset]
    rfl
  · rw [exec, execResetNegated, if_neg (by simp [hlow])]

/-! ### What the emitter records (R170) -/

theorem bumpCount_eq (n : Option Nat) : bumpCount n = some (min (n.getD 0 + 1) 65535) := by
  cases n <;> rfl

theorem bumpLatest_eq {α : Type} (subject : α) (r : Option (Latest α)) :
    bumpLatest subject r = some ⟨subject, min ((r.map (·.count)).getD 0 + 1) 65535⟩ := by
  cases r <;> rfl

/-- Settles O53: the inbox, the records, and the interval timer's last tick. -/
theorem eventsAndTheIntervalTimer : Obligations.EventsAndTheIntervalTimer := by
  unfold Obligations.EventsAndTheIntervalTimer
  refine ⟨fun m es => ⟨fun h => ?_, fun h => ?_⟩, fun p => ⟨fun x => ?_, fun x => ?_, ?_, ?_, fun n => ?_, fun x => ?_, ?_⟩,
    fun s hquiet => ⟨fun hdue => ?_, fun hdue => ?_⟩⟩
  · rw [Emitter.hear, if_neg (by simp [h])]
  · rw [Emitter.hear, if_pos h]
  · rw [PendingSet.record, PerLine.modify_eq_set, bumpCount_eq]
  · rw [PendingSet.record, PerLine.modify_eq_set, bumpCount_eq]
  · rw [PendingSet.record, bumpCount_eq]
  · rw [PendingSet.record, bumpCount_eq]
  · rw [PendingSet.record, bumpLatest_eq]
  · rw [PendingSet.record, bumpLatest_eq]
  · simp only [PendingSet.total]
    omega
  · have hends : s.timerEnds = true := by simpa [State.timerEnds] using hdue
    rw [exec, execIntervalTimerExpiry, s.running_of_quiet _ hquiet, if_pos hends, s.reach_timer]
    rcases hdue with htimer | ⟨htimer, -⟩ <;> simp [htimer]
  · have hends : ¬s.timerEnds = true := by simpa [State.timerEnds] using hdue
    rw [exec, execIntervalTimerExpiry, s.running_of_quiet _ hquiet, if_neg hends]

/-! ### The settled part (R125, R137) -/

theorem State.takeDue_iff (s : State) :
    s.takeDue = true ↔ s.engine.state = .idle ∧ s.engine.queue ≠ [] ∧ (s.buf.desc 126).state = .free := by
  simp [State.takeDue, and_comm, and_left_comm]

theorem State.buildable_iff (s : State) :
    s.buildable = true ↔
      s.emitter.enabled = true ∧ s.emitter.pending ≠ {} ∧ s.emitter.timer = .expired ∧ (s.buf.desc 127).state = .free := by
  simp [State.buildable, PendingSet.isEmpty, and_assoc]

theorem State.buildDue_iff (s : State) :
    s.buildDue = true ↔
      s.emitter.enabled = true ∧ s.emitter.pending ≠ {} ∧ s.emitter.timer = .expired ∧ (s.buf.desc 127).state = .free ∧
        s.awaits.headD 0 ≤ s.emitter.pending.total := by
  rw [State.buildDue, Bool.and_eq_true, s.buildable_iff, decide_eq_true_iff]
  simp only [and_assoc]

theorem State.takeIfDue_of_due (s : State) (h : s.takeDue = true) : s.takeIfDue = s.takeSession := if_pos h

theorem State.takeIfDue_of_not_due (s : State) (h : ¬s.takeDue = true) : s.takeIfDue = s := if_neg h

theorem State.buildIfDue_of_due (s : State) (h : s.buildDue = true) : s.buildIfDue = s.buildNotice := if_pos h

theorem State.buildIfDue_of_not_due (s : State) (h : ¬s.buildDue = true) : s.buildIfDue = s := if_neg h

theorem State.buildNow_of_buildable (s : State) (h : s.drain.buildable = true) :
    s.buildNow = s.drain.buildNotice := if_pos h

theorem State.buildNow_of_not_buildable (s : State) (h : ¬s.drain.buildable = true) : s.buildNow = s.drain := if_neg h

/-- A reset leaves no REINIT pending. -/
theorem State.reinitIfDue_done (s : State) : s.reinitIfDue.reinitDue = false := by
  by_cases h : s.reinitDue = true
  · rw [s.reinitIfDue_of_due h]
    rfl
  · rw [s.reinitIfDue_of_not_due h]
    simpa using h

theorem State.reinitIfDue_reinitIfDue (s : State) : s.reinitIfDue.reinitIfDue = s.reinitIfDue :=
  State.reinitIfDue_of_not_due _ (by simp [s.reinitIfDue_done])

theorem State.reinitIfDue_low (s : State) (h : s.resetHigh = false) : s.reinitIfDue.resetHigh = false := by
  unfold State.reinitIfDue
  split_ifs <;> simp [h]

theorem State.takeSession_engine (s : State) (h : s.takeDue = true) : s.takeSession.engine.state = .executing := by
  obtain ⟨-, hqueue, -⟩ := s.takeDue_iff.1 h
  obtain ⟨d, rest, hcons⟩ := List.exists_cons_of_ne_nil hqueue
  rw [State.takeSession, hcons]
  rfl

theorem State.takeIfDue_low (s : State) (h : s.resetHigh = false) : s.takeIfDue.resetHigh = false := by
  unfold State.takeIfDue
  split_ifs <;> simp [h]

/-- The taking of a session leaves neither a reset nor a session due. -/
theorem State.takeIfDue_done (s : State) (h : s.reinitDue = false) :
    s.takeIfDue.reinitDue = false ∧ s.takeIfDue.takeDue = false := by
  by_cases hdue : s.takeDue = true
  · rw [s.takeIfDue_of_due hdue]
    have hengine := s.takeSession_engine hdue
    simp [State.reinitDue, State.takeDue, hengine]
  · rw [s.takeIfDue_of_not_due hdue]
    exact ⟨h, by simpa using hdue⟩

theorem State.enqueueOwn_desc_other (s : State) (k d : Nat) (x : Line) {n : Nat} (hn : n ≠ d) :
    (s.enqueueOwn k d x).buf.desc n = s.buf.desc n :=
  Buffer.desc_modDesc_other _ _ hn

theorem State.buildNotice_desc_other (s : State) {n : Nat} (hn : n ≠ 127) :
    s.buildNotice.buf.desc n = s.buf.desc n := by
  have hn' : n ≠ Config.noticeDesc := hn
  rw [State.buildNotice]
  generalize s.emitter.pending.records.flatten = text
  obtain ⟨-, -, -, hother⟩ := s.buf.fillNotice_kept s.emitter.line s.emitter.station s.self s.emitter.seq text
  exact (State.enqueueOwn_desc_other _ _ _ _ hn').trans (hother n hn)

theorem State.takeEvent_buf (s : State) : s.takeEvent.buf = s.buf := by
  unfold State.takeEvent
  split <;> rfl

/-- The emitter takes no descriptor but its own. -/
theorem State.drain_desc_other (s : State) {n : Nat} (hn : n ≠ 127) : s.drain.buf.desc n = s.buf.desc n := by
  have hbuild (s : State) : s.buildIfDue.buf.desc n = s.buf.desc n := by
    unfold State.buildIfDue
    split_ifs
    · exact s.buildNotice_desc_other hn
    · rfl
  have htake : ∀ (k : Nat) (s : State), (State.takeEvents k s).buf.desc n = s.buf.desc n := by
    intro k
    induction k with
    | zero => exact hbuild
    | succ k ih => exact fun s => (ih _).trans (by rw [State.takeEvent_buf, hbuild])
  exact htake _ s

theorem State.drain_due (s : State) : s.drain.reinitDue = s.reinitDue ∧ s.drain.takeDue = s.takeDue := by
  have hreply := s.drain_desc_other (show 126 ≠ 127 by decide)
  have hdesc : s.drain.buf.desc Config.replyDesc = s.buf.desc Config.replyDesc := hreply
  simp [State.reinitDue, State.takeDue, hdesc]

/-- Nothing is due in the settled part. -/
theorem State.settle_quiet (s : State) (h : s.resetHigh = false) : s.settle.quiet = true := by
  obtain ⟨hreset, htake⟩ := s.reinitIfDue.takeIfDue_done s.reinitIfDue_done
  obtain ⟨hreset', htake'⟩ := s.reinitIfDue.takeIfDue.drain_due
  obtain ⟨hinbox, hbuild⟩ := s.reinitIfDue.takeIfDue.drain_done
  exact (State.quiet_iff _).2 ⟨s.settle_resetHigh h, hreset'.trans hreset, htake'.trans htake, hinbox, hbuild⟩

/-- A notice that is due comes before the first event. -/
theorem State.drain_buildIfDue (s : State) : s.buildIfDue.drain = s.drain := by
  have hnot : ¬s.buildIfDue.buildDue = true := by simp
  by_cases hinbox : s.emitter.inbox = []
  · rw [s.drain_of_nil hinbox, s.buildIfDue.drain_of_nil (by simpa using hinbox), State.buildIfDue_of_not_due _ hnot]
  · rw [s.drain_of_cons hinbox, s.buildIfDue.drain_of_cons (by simpa using hinbox), State.buildIfDue_of_not_due _ hnot]

theorem State.drain_drain (s : State) : s.drain.drain = s.drain := by
  obtain ⟨hinbox, hbuild⟩ := s.drain_done
  rw [s.drain.drain_of_nil hinbox, State.buildIfDue_of_not_due _ (by simp [hbuild])]

end Sys2Proof.Machine

/-! PROOF. What is due comes first (log 3), whatever edges and ticks are listed; and how the emitter takes its events
(R171, log 4). -/

namespace Sys2Proof.Machine

/-! ### What is due reads no list of edges or ticks -/

section

variable (s : State) (edges : List Edge) (ticks : List (List TickTaker))

theorem State.drain_withClocks : (s.withClocks edges ticks).drain = s.drain.withClocks edges ticks := by
  have hrx : s.drain.rx = s.rx := by simp
  rw [State.withClocks_eq, State.drain_withRxClocks, State.withClocks_eq, hrx]

theorem State.reinitIfDue_withClocks :
    (s.withClocks edges ticks).reinitIfDue = s.reinitIfDue.withClocks edges ticks := by
  have hdue : (s.withClocks edges ticks).reinitDue = s.reinitDue := rfl
  rw [State.reinitIfDue, State.reinitIfDue, hdue]
  split_ifs <;> rfl

theorem State.takeSession_withClocks :
    (s.withClocks edges ticks).takeSession = s.takeSession.withClocks edges ticks := by
  have hqueue : (s.withClocks edges ticks).engine.queue = s.engine.queue := rfl
  rw [State.takeSession, State.takeSession, hqueue]
  cases s.engine.queue <;> rfl

theorem State.takeIfDue_withClocks : (s.withClocks edges ticks).takeIfDue = s.takeIfDue.withClocks edges ticks := by
  have hdue : (s.withClocks edges ticks).takeDue = s.takeDue := rfl
  rw [State.takeIfDue, State.takeIfDue, hdue, State.takeSession_withClocks]
  split_ifs <;> rfl

theorem State.settle_withClocks : (s.withClocks edges ticks).settle = s.settle.withClocks edges ticks := by
  rw [State.settle, State.reinitIfDue_withClocks, State.takeIfDue_withClocks, State.drain_withClocks, State.settle]

end

/-! ### Commands in the settled part -/

theorem State.settle_settle (s : State) (h : s.resetHigh = false) : s.settle.settle = s.settle :=
  s.settle.settle_of_quiet (s.settle_quiet h)

/-- A step of the running part acts on the settled part. -/
theorem State.running_settle (s : State) (f : State → State) (h : s.resetHigh = false) :
    s.running f = s.settle.running f := by
  rw [s.running_of_low f h, s.settle.running_of_quiet f (s.settle_quiet h)]

/-- The edge of an empty queue acts on the settled part. -/
theorem State.idle_settle (s : State) (h : s.resetHigh = false) : s.idle = s.settle.idle := by
  obtain ⟨-, hedges, hticks, -⟩ := s.settle_inputs
  have hsettle : ({ s with edges := s.edges.tail } : State).settle = { s.settle with edges := s.settle.edges.tail } := by
    refine (s.settle_withClocks s.edges.tail s.ticks).trans ?_
    rw [State.withClocks, hedges, ← hticks]
  rw [State.idle, State.running_settle { s with edges := s.edges.tail } _ h, hsettle, State.idle, hedges]

theorem step_of_empty (s : State) (h : s.pending = []) : step s = .next s.idle := by
  rw [step, h]

theorem State.takeEvent_of_getElem (s : State) (e : Event) (h : s.emitter.inbox[s.nextArrival]? = some e) :
    s.takeEvent =
      { s with
        emitter :=
          { s.emitter with pending := s.emitter.pending.record e, inbox := s.emitter.inbox.eraseIdx s.nextArrival }
        arrivals := s.arrivals.tail } := by
  rw [State.takeEvent, h]

/-- The notice built before the first event is the one that NOTICE_BUILD builds where no event waits. -/
theorem State.drain_of_buildDue (s : State) (h : s.buildDue = true) :
    let u := State.buildNotice { s with emitter := { s.emitter with inbox := [] } }
    State.buildNow { s with emitter := { s.emitter with inbox := [] } } = u ∧
      s.drain = State.drain { u with emitter := { u.emitter with inbox := s.emitter.inbox } } := by
  intro u
  let s0 : State := { s with emitter := { s.emitter with inbox := [] } }
  have hdue : s0.buildDue = true := h
  have hdrain : s0.drain = u := by rw [s0.drain_of_nil rfl, s0.buildIfDue_of_due hdue]
  have hnot : ¬s0.drain.buildable = true := by
    rw [hdrain, State.buildable_iff]
    exact fun hbuildable => hbuildable.2.1 rfl
  refine ⟨(s0.buildNow_of_not_buildable hnot).trans hdrain, ?_⟩
  rw [← s.drain_buildIfDue, s.buildIfDue_of_due h]
  rfl

/-- Settles O3: the settled part is the reset, the session and the emitter's events in turn, and nothing is due in it. -/
theorem dueStepsComeFirst : Obligations.DueStepsComeFirst := by
  unfold Obligations.DueStepsComeFirst
  refine ⟨fun s hlow => ⟨fun hresets htakes => ?_, fun hresets hinbox hbuildable => ?_, fun hresets => ?_,
    s.reinitIfDue, s.reinitIfDue.takeIfDue, exec_reinitReset_of_low s hlow, ?_, ?_, ?_, rfl, s.settle_quiet hlow,
    fun hempty => ?_, fun c hhard hneg htake hreset hbuild => ?_⟩,
    fun s => ⟨fun hinbox hbuilds => ?_, fun hlow hresets hbuilds => ?_, fun e hbuilds hevent => ?_⟩⟩
  · rw [exec_sessionTake_of_low s hlow, s.reinitIfDue_of_not_due (s.reinitDue_iff.not.2 hresets),
      s.takeIfDue_of_not_due (s.takeDue_iff.not.2 htakes)]
  · have hdue : ¬s.buildDue = true := fun h => hbuildable (s.buildable_iff.1 (by simp_all [State.buildDue]))
    have hdrain : s.drain = s := by rw [s.drain_of_nil hinbox, s.buildIfDue_of_not_due hdue]
    have hnot : ¬s.drain.buildable = true := by rw [hdrain]; exact s.buildable_iff.not.2 hbuildable
    rw [exec_noticeBuild_of_low s hlow, s.reinitIfDue_of_not_due (s.reinitDue_iff.not.2 hresets),
      s.buildNow_of_not_buildable hnot, hdrain]
  · have hreset : ¬s.reinitDue = true := s.reinitDue_iff.not.2 hresets
    have hreset' : ¬s.drain.reinitDue = true := by rwa [s.drain_due.1]
    rw [exec_noticeBuild_of_low s hlow, exec_noticeBuild_of_low s.drain (by simp [hlow]), s.reinitIfDue_of_not_due hreset,
      s.drain.reinitIfDue_of_not_due hreset', State.buildNow, State.buildNow, s.drain_drain]
  · rw [exec_sessionTake_of_low _ (s.reinitIfDue_low hlow), s.reinitIfDue_reinitIfDue]
  · rw [exec_sessionTake_of_low s hlow, exec_sessionTake_of_low _ (s.reinitIfDue_low hlow), s.reinitIfDue_reinitIfDue]
  · rw [exec_noticeBuild_of_low s hlow, exec_noticeBuild_of_low _ (s.reinitIfDue_low hlow), s.reinitIfDue_reinitIfDue]
  · have hempty' : s.settle.pending = [] := by simp [hempty]
    exact (step_of_empty s hempty).trans ((congrArg _ (s.idle_settle hlow)).trans (step_of_empty s.settle hempty').symm)
  · obtain ⟨f, hf⟩ := exec_runs c (by simp_all)
    rw [hf, hf, s.running_settle f hlow]
    rfl
  · rw [s.drain_of_nil hinbox, s.buildIfDue_of_not_due (s.buildDue_iff.not.2 hbuilds)]
  · obtain ⟨hbuilt, hdrain⟩ := s.drain_of_buildDue (s.buildDue_iff.2 hbuilds)
    refine ⟨_, ?_, hdrain⟩
    have hreset : ¬State.reinitDue { s with emitter := { s.emitter with inbox := [] } } = true :=
      (State.reinitDue_iff _).not.2 hresets
    rw [exec_noticeBuild_of_low { s with emitter := { s.emitter with inbox := [] } } hlow,
      State.reinitIfDue_of_not_due _ hreset, hbuilt]
  · have hinbox : s.emitter.inbox ≠ [] := by
      intro h
      rw [h] at hevent
      exact absurd hevent (by simp)
    rw [s.drain_of_cons hinbox, s.buildIfDue_of_not_due (s.buildDue_iff.not.2 hbuilds), s.takeEvent_of_getElem e hevent]
    rfl

end Sys2Proof.Machine

/-! PROOF. The notice built: its records, the one cell they go into, and its place in the queue (R172, R173). -/

namespace Sys2Proof.Machine

/-! ### Octets written into a chain of one cell -/

/-- No partition cell is read where the octet falls in a cell held. -/
theorem Buffer.putOctet_withPart (b : Buffer) (d k : Nat) (o : Byte) (l : List Nat) (h : k < 64 * (b.desc d).chain.length) :
    Buffer.putOctet { b with freePart := l } d k o = { b.putOctet d k o with freePart := l } ∧
      (b.putOctet d k o).descs = b.descs ∧ (b.putOctet d k o).freePart = b.freePart := by
  have hle : ¬(b.desc d).chain.length ≤ k / Config.cellSize := by
    rw [show Config.cellSize = 64 from rfl]
    omega
  have hdesc : Buffer.desc { b with freePart := l } d = b.desc d := rfl
  have hget := List.getElem?_eq_getElem (Nat.not_le.1 hle)
  simp only [Buffer.putOctet, hdesc, if_neg hle, hget, and_self]

theorem Buffer.putOctets_withPart (b : Buffer) (d k : Nat) (os : List Byte) (l : List Nat)
    (h : k + os.length ≤ 64 * (b.desc d).chain.length) :
    Buffer.putOctets { b with freePart := l } d k os = { b.putOctets d k os with freePart := l } ∧
      (b.putOctets d k os).descs = b.descs ∧ (b.putOctets d k os).freePart = b.freePart := by
  induction os generalizing b k with
  | nil => exact ⟨rfl, rfl, rfl⟩
  | cons o os ih =>
    rw [List.length_cons] at h
    obtain ⟨hput, hdescs, hpart⟩ := b.putOctet_withPart d k o l (by omega)
    have hdesc : (b.putOctet d k o).desc d = b.desc d := by rw [Buffer.desc, hdescs, Buffer.desc]
    obtain ⟨hputs, hdescs', hpart'⟩ := ih (b.putOctet d k o) (k + 1) (by rw [hdesc]; omega)
    exact ⟨by rw [Buffer.putOctets, hput, hputs, Buffer.putOctets], hdescs'.trans hdescs, hpart'.trans hpart⟩

/-- Octets written from the start of a chain of one cell. -/
theorem Buffer.inCell_spec (b : Buffer) (d c : Nat) (os : List Byte) (hchain : (b.desc d).chain = [c]) (hc : c < 512)
    (hwf : b.mem.wf = true) (hheld : d < b.descs.length) (hlength : os.length ≤ 64) :
    let b' := b.putOctets d 0 os
    b'.descs = b.descs ∧ b'.freePart = b.freePart ∧ (∀ k, k < os.length → b'.storedOctet d k = os.getD k 0) ∧
      ∀ a, a < 64 * c ∨ 64 * c + os.length ≤ a → b'.mem.read a = b.mem.read a := by
  let b0 : Buffer := { b with freePart := [] }
  have hready : b0.Ready d 0 (os.length + 0) := by
    have hchain' : (b0.desc d).chain = [c] := hchain
    refine ⟨hwf, hheld, ?_, ?_, by omega, ?_⟩ <;> rw [hchain']
    · simp [b0]
    · simpa [b0] using hc
    · simpa [b0] using hlength
  obtain ⟨hput, hdescs, hpart⟩ := b.putOctets_withPart d 0 os [] (by rw [hchain]; simpa using hlength)
  obtain ⟨-, hwritten, -⟩ := b0.putOctets_spec d 0 os 0 hready
  have hread := b0.putOctets_read_other d 0 os 0 hready
  have hput' : b0.putOctets d 0 os = { b.putOctets d 0 os with freePart := [] } := hput
  rw [hput'] at hwritten hread
  intro b'
  have hchain' : (b'.desc d).chain = [c] := by rw [Buffer.desc, hdescs]; exact hchain
  refine ⟨hdescs, hpart, fun k hk => ?_, fun a ha => hread a fun j _ hj => ?_⟩
  · have hk' := hwritten k hk
    rwa [Nat.zero_add] at hk'
  · have haddress : Buffer.address { b' with freePart := [] } d j = 64 * c + j := by
      have hlt : j < 64 := by omega
      have hdesc : Buffer.desc { b' with freePart := [] } d = b'.desc d := rfl
      rw [Buffer.address, hdesc, hchain', Nat.div_eq_of_lt hlt, Nat.mod_eq_of_lt hlt]
      rfl
    exact fun h => by rw [haddress] at h; omega

/-! ### The notice's descriptor and its cell (R173) -/

theorem Buffer.takeNotice_eq (b : Buffer) (x : Line) (c : Nat) (cells : List Nat) (hpart : b.freePart = c :: cells) :
    b.takeNotice x =
      { b with
        freePart := cells
        descs := b.descs.modify 127 fun v =>
          { v with
            state := .building, origin := .notice, ingress := none, mark := false, cls := .urgent
            egress := ⟨x = .a, x = .b, x = .l⟩, chain := v.chain ++ [c] } } := by
  rw [Buffer.takeNotice, Buffer.claimPart_cons _ _ c cells (by simpa using hpart)]
  simp only [Buffer.modDesc, List.modify_modify_eq]
  rfl

section

variable (b : Buffer) (x : Line) (dst src seq : Byte) (text : List Byte) (c : Nat) (cells : List Nat)
  (hpart : b.freePart = c :: cells) (hchain : (b.desc 127).chain = []) (hc : c < 512) (hwf : b.mem.wf = true)
  (hlength : b.descs.length = 128) (htext : text.length ≤ 58)

include hpart hchain hc hwf hlength htext

/-- The notice filled: its descriptor, its text and header, and what is left of the rest of the buffer. -/
theorem Buffer.fillNotice_spec :
    let b' := (b.takeNotice x).fillNotice dst src seq text
    let header := headerOctets dst src Config.kindNotice seq text.length
    b'.desc 127 =
        { b.desc 127 with
          state := .building, ingress := none, origin := .notice, chain := [c], len := text.length, dst, src
          kind := Config.kindNotice, seq, mark := false, txDst := dst, cls := .urgent
          egress := ⟨x = .a, x = .b, x = .l⟩ } ∧
      b'.freePart = cells ∧ b'.text 127 = text ∧ (∀ k, k < 6 → b'.storedOctet 127 k = header.getD k 0) ∧
      ∀ a, a < 64 * c ∨ 64 * c + 6 + text.length ≤ a → b'.mem.read a = b.mem.read a := by
  intro b' header
  have htaken := b.takeNotice_eq x c cells hpart
  have hdesc : (b.takeNotice x).desc 127 =
      { b.desc 127 with
        state := .building, origin := .notice, ingress := none, mark := false, cls := .urgent
        egress := ⟨x = .a, x = .b, x = .l⟩, chain := [c] } := by
    rw [htaken]
    refine (Buffer.desc_modDesc_same { b with freePart := cells } 127 _ (by simp [hlength])).trans ?_
    simp only [show Buffer.desc { b with freePart := cells } 127 = b.desc 127 from rfl, hchain, List.nil_append]
  have htakenPart : (b.takeNotice x).freePart = cells := by rw [htaken]
  have htakenMem : (b.takeNotice x).mem = b.mem := by rw [htaken]
  have htakenLength : (b.takeNotice x).descs.length = 128 := by rw [htaken]; simpa using hlength
  have hheader : header.length = 6 := rfl
  have hos : (header ++ text).length = 6 + text.length := by rw [List.length_append, hheader]
  have hb' : b' = ((b.takeNotice x).putOctets 127 0 (header ++ text)).modDesc 127 fun v =>
      { v with dst, src, kind := Config.kindNotice, seq, len := text.length, txDst := dst } := rfl
  generalize b.takeNotice x = taken at *
  obtain ⟨hdescs, hputPart, hwritten, hread⟩ := taken.inCell_spec 127 c (header ++ text) (by rw [hdesc]) hc
    (by rw [htakenMem]; exact hwf) (by omega) (by omega)
  generalize taken.putOctets 127 0 (header ++ text) = put at *
  have hputDesc : put.desc 127 = taken.desc 127 := by rw [Buffer.desc, hdescs, Buffer.desc]
  have hfinal : b'.desc 127 =
      { put.desc 127 with dst, src, kind := Config.kindNotice, seq, len := text.length, txDst := dst } := by
    rw [hb']
    exact put.desc_modDesc_same 127 (fun v =>
      { v with dst, src, kind := Config.kindNotice, seq, len := text.length, txDst := dst }) (by rw [hdescs]; omega)
  have hmem : b'.mem = put.mem := by rw [hb']; rfl
  have hstored (k : Nat) : b'.storedOctet 127 k = put.storedOctet 127 k :=
    Buffer.storedOctet_congr k hmem (by rw [hfinal])
  refine ⟨by rw [hfinal, hputDesc, hdesc], by rw [hb']; exact hputPart.trans htakenPart, ?_, fun k hk => ?_, fun a ha => ?_⟩
  · have hlen : (b'.desc 127).len = text.length := by rw [hfinal]
    rw [Buffer.text, hlen]
    refine Eq.trans (List.map_congr_left fun i hi => ?_) (map_range_getD text)
    have hi' := List.mem_range.1 hi
    rw [hstored, hwritten _ (by omega), List.getD_append_right _ _ _ _ (by omega), hheader, Nat.add_sub_cancel_left]
  · rw [hstored, hwritten _ (by omega), List.getD_append _ _ _ _ (by omega)]
  · rw [hmem, hread a (by omega), htakenMem]

end

/-- What a notice leaves of the rest of the buffer. -/
theorem Buffer.fillNotice_rest (b : Buffer) (x : Line) (dst src seq : Byte) (text : List Byte) :
    b.restKept ((b.takeNotice x).fillNotice dst src seq text) := by
  simp [Buffer.restKept, Buffer.takeNotice, Buffer.fillNotice]

/-! ### The records (R10, R173) -/

/-- A record of the pending set, or nothing. -/
def countRecord (event subject : Byte) (count : Option Nat) : List Byte :=
  match count with
  | none => []
  | some n => eventRecord event subject n

theorem countRecord_length (event subject : Byte) (count : Option Nat) :
    (countRecord event subject count).length ≤ 4 := by
  cases count <;> simp [countRecord, eventRecord, octets2]

/-- The subject of a ROUTE-FREED record. -/
def routeSubject : Option (Latest Nat) → Byte
  | some r => BitVec.ofNat 8 r.subject
  | none => 0

/-- The subject of a MGMT-OVERFLOW record. -/
def overflowSubject : Option (Latest Line) → Byte
  | some ⟨.a, _⟩ | none => 0
  | some ⟨.b, _⟩ => 1
  | some ⟨.l, _⟩ => 2

/-- The records of the pending set one after another. -/
def PendingSet.text (p : PendingSet) : List Byte :=
  countRecord 0x01 0 p.syncLost.a ++ countRecord 0x01 1 p.syncLost.b ++ countRecord 0x01 2 p.syncLost.l ++
  countRecord 0x02 0 p.syncGained.a ++ countRecord 0x02 1 p.syncGained.b ++ countRecord 0x02 2 p.syncGained.l ++
  countRecord 0x03 0 p.bufferLow ++ countRecord 0x04 0 p.bufferRecovered ++
  countRecord 0x05 (routeSubject p.routeFreed) (p.routeFreed.map (·.count)) ++
  countRecord 0x06 (overflowSubject p.mgmtOverflow) (p.mgmtOverflow.map (·.count))

theorem length_append_countRecord {os : List Byte} {n : Nat} (h : os.length ≤ n) (event subject : Byte)
    (count : Option Nat) : (os ++ countRecord event subject count).length ≤ n + 4 := by
  have hcount := countRecord_length event subject count
  rw [List.length_append]
  omega

theorem PendingSet.text_length (p : PendingSet) : p.text.length ≤ 40 := by
  rw [PendingSet.text]
  iterate 9 refine length_append_countRecord ?_ _ _ _
  exact countRecord_length _ _ _

/-- A line's records. -/
theorem flatten_lineRecords (event : Byte) (n : PerLine (Option Nat)) :
    ([Line.a, Line.b, Line.l].filterMap fun y => (n.get y).map (eventRecord event y.code)).flatten =
      countRecord event 0 n.a ++ countRecord event 1 n.b ++ countRecord event 2 n.l := by
  obtain ⟨a, b, l⟩ := n
  cases a <;> cases b <;> cases l <;> rfl

theorem flatten_countRecord (event subject : Byte) (n : Option Nat) :
    ((n.map (eventRecord event subject)).toList).flatten = countRecord event subject n := by
  cases n <;> simp [countRecord]

theorem flatten_routeRecord (r : Option (Latest Nat)) :
    ((r.map fun r => eventRecord 0x05 (loOctet r.subject) r.count).toList).flatten =
      countRecord 0x05 (routeSubject r) (r.map (·.count)) := by
  cases r <;> simp [countRecord, routeSubject, loOctet]

theorem flatten_overflowRecord (r : Option (Latest Line)) :
    ((r.map fun r => eventRecord 0x06 r.subject.code r.count).toList).flatten =
      countRecord 0x06 (overflowSubject r) (r.map (·.count)) := by
  match r with
  | none => rfl
  | some ⟨.a, n⟩ | some ⟨.b, n⟩ | some ⟨.l, n⟩ => simp [countRecord, overflowSubject, Line.code]

theorem PendingSet.records_flatten (p : PendingSet) : p.records.flatten = p.text := by
  simp only [PendingSet.records, List.flatten_append, flatten_lineRecords, flatten_countRecord, flatten_routeRecord,
    flatten_overflowRecord]
  simp only [PendingSet.text, List.append_assoc]

/-! ### The notice queued -/

theorem State.buildNow_of_nil (s : State) (hinbox : s.emitter.inbox = []) (h : s.buildable = true) :
    s.buildNow = s.buildNotice := by
  by_cases hdue : s.buildDue = true
  · have hdrain : s.drain = s.buildNotice := by rw [s.drain_of_nil hinbox, s.buildIfDue_of_due hdue]
    have hnot : ¬s.drain.buildable = true := by
      rw [hdrain, State.buildable_iff]
      exact fun hbuildable => hbuildable.2.1 rfl
    rw [s.buildNow_of_not_buildable hnot, hdrain]
  · have hdrain : s.drain = s := by rw [s.drain_of_nil hinbox, s.buildIfDue_of_not_due hdue]
    rw [s.buildNow_of_buildable (by rwa [hdrain]), hdrain]

theorem State.changesOnly_buildNotice (s : State) :
    s.changesOnly s.buildNotice [.tx s.emitter.line, .cells, .pools, .descs, .tickets, .emitter, .awaits] := by
  intro p hp
  cases p
  case cells | pools | descs | tickets | emitter | awaits => simp at hp
  case tx y =>
    have hy : y ≠ s.emitter.line := by simpa using hp
    exact PerLine.get_set_other _ _ hy
  all_goals simp [Part.same]

/-- Settles O52: the records in one partition cell, and ticket 191 at the tail of the URGENT queue. -/
theorem noticeIsBuilt : Obligations.NoticeIsBuilt := by
  unfold Obligations.NoticeIsBuilt
  intro s c cells hlow hresets hinbox henabled hpending htimer hfree hchain hlength hpart hc hwf m p record text header
  have hrecords : m.pending.records.flatten = text := m.pending.records_flatten
  have htext : text.length ≤ 58 := Nat.le_trans (PendingSet.text_length p) (by decide)
  have hbuildable : s.buildable = true := s.buildable_iff.2 ⟨henabled, hpending, htimer, hfree⟩
  have hexec : exec .noticeBuild s = .next s.buildNotice := by
    rw [exec_noticeBuild_of_low s hlow, s.reinitIfDue_of_not_due (s.reinitDue_iff.not.2 hresets),
      s.buildNow_of_nil hinbox hbuildable]
  have hframe := s.changesOnly_buildNotice
  obtain ⟨hdesc, hpart', htext', hheader, hread⟩ := s.buf.fillNotice_spec m.line m.station s.self m.seq text c cells hpart
    hchain hc hwf hlength htext
  obtain ⟨-, -, hlength', hother⟩ := s.buf.fillNotice_kept m.line m.station s.self m.seq text
  have hrest := s.buf.fillNotice_rest m.line m.station s.self m.seq text
  have hbuf : s.buildNotice.buf =
      (((s.buf.takeNotice m.line).fillNotice m.station s.self m.seq text).modTicket 191 fun _ =>
        ⟨.waiting, 127, m.line, .urgent, 0⟩).modDesc 127 fun v => { v with state := .queued, tickets := 1 } := by
    rw [← hrecords]
    rfl
  generalize (s.buf.takeNotice m.line).fillNotice m.station s.self m.seq text = b at *
  have hdesc127 : s.buildNotice.buf.desc 127 = { b.desc 127 with state := .queued, tickets := 1 } := by
    rw [hbuf]
    exact Buffer.desc_modDesc_same _ 127 (fun v => { v with state := .queued, tickets := 1 }) (by
      show 127 < b.descs.length
      omega)
  have hmem : s.buildNotice.buf.mem = b.mem := by rw [hbuf]; rfl
  have hstored (k : Nat) : s.buildNotice.buf.storedOctet 127 k = b.storedOctet 127 k :=
    Buffer.storedOctet_congr k hmem (by rw [hdesc127])
  refine ⟨s.buildNotice, hexec, rfl, ?_, fun n hn => ?_, ?_, ?_, fun k hk => (hstored k).trans (hheader k hk), ?_, ?_, rfl,
    hframe⟩
  · rw [hdesc127, hdesc]
  · rw [hbuf]
    exact (Buffer.desc_modDesc_other _ _ hn).trans (hother n hn)
  · obtain ⟨hfreeCells, hfreeDescs, htickets, hfreeTickets, hhwCells, hhwDescs, harmed⟩ := hrest
    rw [hbuf]
    cases b
    simp only [Buffer.modTicket, Buffer.modDesc, List.set_eq_modify] at *
    simp only [hfreeCells, hpart', hfreeDescs, htickets, hfreeTickets, hhwCells, hhwDescs, harmed]
  · have hlen : (s.buildNotice.buf.desc 127).len = (b.desc 127).len := by rw [hdesc127]
    rw [Buffer.text, hlen, ← htext', Buffer.text]
    exact List.map_congr_left fun i _ => hstored _
  · intro a ha
    rw [hmem, hread a ha]
  · exact PerLine.get_modify_same _ _ _

end Sys2Proof.Machine

/-! PROOF. An octet on RDx is its eight bits (R14, R31, R33, R179): between them the receiver only shifts its history. -/

namespace Sys2Proof.Machine

/-! ### The bit history -/

/-- The last eight bits. -/
def lastEight (h : List Bool) : List Bool := h.drop (h.length - 8)

theorem pushBit_eq_lastEight (h : List Bool) (b : Bool) : pushBit h b = lastEight (h ++ [b]) := rfl

theorem lastEight_lastEight_append (h : List Bool) (b : Bool) :
    lastEight (lastEight h ++ [b]) = lastEight (h ++ [b]) := by
  rcases Nat.lt_or_ge 8 h.length with hlong | hshort
  · simp only [lastEight, List.length_append, List.length_drop, List.length_singleton]
    rw [List.drop_append_of_le_length (by rw [List.length_drop]; omega), List.drop_append_of_le_length (by omega),
      List.drop_drop]
    congr 2
    omega
  · have hall : lastEight h = h := by rw [lastEight, Nat.sub_eq_zero_of_le hshort, List.drop_zero]
    rw [hall]

theorem foldl_pushBit (h bits : List Bool) : bits.foldl pushBit (lastEight h) = lastEight (h ++ bits) := by
  induction bits generalizing h with
  | nil => rw [List.foldl_nil, List.append_nil]
  | cons b bits ih =>
    rw [List.foldl_cons, pushBit_eq_lastEight, lastEight_lastEight_append, ih, List.append_assoc, List.singleton_append]

/-- Eight bits leave nothing of the history before them. -/
theorem foldl_pushBit_eight (h bits : List Bool) (hbits : bits.length = 8) : bits.foldl pushBit h = bits := by
  match bits, hbits with
  | b :: bits, hbits =>
    rw [List.foldl_cons, pushBit_eq_lastEight, foldl_pushBit, List.append_assoc, List.singleton_append, lastEight]
    exact List.drop_left' (by simp [hbits])

/-! ### Bits between octet boundaries -/

/-- The receiver of a line with a history, `p` bits past an octet boundary. -/
def State.atBit (s : State) (x : Line) (h : List Bool) (p : Nat) : State :=
  s.modRx x fun r => { r with history := h, align := some p }

section

variable (s : State) (x : Line) (h : List Bool) (p : Nat)

theorem State.atBit_quiet : (s.atBit x h p).quiet = s.quiet := rfl

theorem State.atBit_rx : (s.atBit x h p).rx.get x = { s.rx.get x with history := h, align := some p } :=
  PerLine.get_modify_same _ _ _

theorem State.atBit_atBit (h' : List Bool) (p' : Nat) : (s.atBit x h p).atBit x h' p' = s.atBit x h' p' := by
  rw [State.atBit, State.atBit, State.modRx_modRx]
  rfl

theorem State.atBit_self (halign : (s.rx.get x).align = some p) : s.atBit x (s.rx.get x).history p = s := by
  have hself : ({ s.rx.get x with history := (s.rx.get x).history, align := some p } : Receiver) = s.rx.get x := by
    rw [← halign]
  rw [State.atBit, State.modRx, PerLine.modify_eq_set, hself, PerLine.set_get]

/-- A bit inside an octet. -/
theorem State.receiveBit_of_inside (b : Bool) (hp : p < 7) :
    (s.atBit x h p).receiveBit x b = s.atBit x (pushBit h b) (p + 1) := by
  rw [State.receiveBit, State.atBit_rx]
  dsimp only
  rw [if_pos hp]
  exact s.atBit_atBit x h p _ _

/-- The eighth bit of an octet. -/
theorem State.receiveBit_of_last (b : Bool) :
    (s.atBit x h 7).receiveBit x b = (s.atBit x (pushBit h b) 0).takeOctet x (octetOf (pushBit h b)) := by
  rw [State.receiveBit, State.atBit_rx]
  dsimp only
  rw [if_neg (by decide)]
  exact congrArg (State.takeOctet · x _) (s.atBit_atBit x h 7 _ _)

end

/-- One bit reaches the receiver, what is due being taken first. -/
def State.takeBit (x : Line) (s : State) (bit : Bool) : State := s.settle.receiveBit x bit

theorem State.takeBit_settle (s : State) (x : Line) (b : Bool) (hlow : s.resetHigh = false) :
    State.takeBit x s.settle b = State.takeBit x s b := by
  rw [State.takeBit, s.settle_settle hlow, State.takeBit]

theorem State.takeBits_settle (s : State) (x : Line) (b : Bool) (bits : List Bool) (hlow : s.resetHigh = false) :
    (b :: bits).foldl (State.takeBit x) s.settle = (b :: bits).foldl (State.takeBit x) s := by
  rw [List.foldl_cons, s.takeBit_settle x b hlow, List.foldl_cons]

/-- Bits inside an octet only shift the history. -/
theorem State.takeBits_inside (s : State) (x : Line) (bits h : List Bool) (p : Nat) (hquiet : s.quiet = true)
    (hp : p + bits.length ≤ 7) :
    bits.foldl (State.takeBit x) (s.atBit x h p) = s.atBit x (bits.foldl pushBit h) (p + bits.length) := by
  induction bits generalizing h p with
  | nil => rfl
  | cons b bits ih =>
    rw [List.length_cons] at hp
    have hquiet' : (s.atBit x h p).quiet = true := hquiet
    rw [List.foldl_cons, State.takeBit, State.settle_of_quiet _ hquiet', s.receiveBit_of_inside x h p b (by omega),
      ih _ _ (by omega), List.foldl_cons, List.length_cons, Nat.add_assoc, Nat.add_comm 1]

/-- Eight bits from an octet boundary on are the octet. -/
theorem State.takeBits_octet (s : State) (x : Line) (o : Byte) (hquiet : s.quiet = true)
    (halign : (s.rx.get x).align = some 0) :
    (octetBits o).foldl (State.takeBit x) s = s.receiveOctet x o := by
  obtain ⟨first, last, hsplit, hlength⟩ : ∃ first last, octetBits o = first ++ [last] ∧ first.length = 7 :=
    ⟨_, o.getLsbD 7, (List.take_append_drop 7 (octetBits o)).symm, rfl⟩
  have hhistory : pushBit (first.foldl pushBit (s.rx.get x).history) last = octetBits o := by
    have hall := foldl_pushBit_eight (s.rx.get x).history (octetBits o) rfl
    rw [hsplit, List.foldl_concat] at hall
    rw [hall, hsplit]
  have hinside : first.foldl (State.takeBit x) s = s.atBit x (first.foldl pushBit (s.rx.get x).history) 7 := by
    have h := s.takeBits_inside x first (s.rx.get x).history 0 hquiet (by omega)
    rwa [s.atBit_self x 0 halign, hlength, Nat.zero_add] at h
  have hquiet7 : (s.atBit x (first.foldl pushBit (s.rx.get x).history) 7).quiet = true := hquiet
  rw [hsplit, List.foldl_concat, hinside, State.takeBit, State.settle_of_quiet _ hquiet7, s.receiveBit_of_last, hhistory,
    octetOf_octetBits, State.receiveOctet, if_pos halign, State.atBit]
  refine congrArg (State.takeOctet · x o) (s.modRx_congr x ?_)
  rw [← halign]

/-! ### Bit commands -/

theorem exec_huntComparisonNoMatch_of_low (s : State) (x : Line) (b : Bool) (h : s.resetHigh = false) :
    exec (.huntComparisonNoMatch x b) s = .next (State.takeBit x s b) ∧ (State.takeBit x s b).resetHigh = false := by
  refine ⟨?_, ?_⟩
  · rw [exec, execHuntComparisonNoMatch, s.running_of_low _ h, State.takeBit]
  · rw [State.takeBit, (State.receiveBit_kept _ x b).1, s.settle_resetHigh h]

/-- The command that brings a bit, after an outcome. -/
def bitCommand (x : Line) (r : Host.Outcome State Fault Refusal) (bit : Bool) : Host.Outcome State Fault Refusal :=
  match r with
  | .next t => exec (.huntComparisonNoMatch x bit) t
  | .fault e => .fault e
  | .refused e => .refused e

theorem foldl_bitCommand (bits : List Bool) (s : State) (x : Line) (h : s.resetHigh = false) :
    bits.foldl (bitCommand x) (.next s) = .next (bits.foldl (State.takeBit x) s) := by
  induction bits generalizing s with
  | nil => rfl
  | cons b bits ih =>
    obtain ⟨hnext, hlow⟩ := exec_huntComparisonNoMatch_of_low s x b h
    rw [List.foldl_cons, bitCommand, hnext, ih _ hlow, List.foldl_cons]

/-- Settles O9: from an octet boundary on the eight bits spell the octet; elsewhere it is taken as its bits. -/
theorem octetIsItsEightBits : Obligations.OctetIsItsEightBits := by
  intro s x o i hlow hi
  have hexec : exec i s = .next (s.running fun s => s.receiveOctet x o) := by
    simp only [List.mem_cons, List.not_mem_nil, or_false] at hi
    rcases hi with rfl | rfl | rfl | rfl | rfl | rfl | rfl | rfl <;> rfl
  have hfirst : (octetBits o).foldl (State.takeBit x) s.settle = (octetBits o).foldl (State.takeBit x) s := by
    rw [octetBits]
    exact s.takeBits_settle x _ _ hlow
  have htaken : s.settle.receiveOctet x o = (octetBits o).foldl (State.takeBit x) s := by
    rw [← hfirst]
    by_cases halign : (s.settle.rx.get x).align = some 0
    · exact (s.settle.takeBits_octet x o (s.settle_quiet hlow) halign).symm
    · exact if_neg halign
  calc exec i s
    _ = .next ((octetBits o).foldl (State.takeBit x) s) := by rw [hexec, s.running_of_low _ hlow, htaken]
    _ = (octetBits o).foldl (bitCommand x) (.next s) := (foldl_bitCommand _ s x hlow).symm

end Sys2Proof.Machine

/-! PROOF. The tick (R30, R104, R172, R180): what one block's part of it does, how it goes on to the blocks it has not
reached, and that none of this reads the list of ticks to come. -/

namespace Sys2Proof.Machine

/-! ### The tick at a block reads no list of edges or ticks -/

section

variable (s : State) (edges : List Edge) (ticks : List (List TickTaker))

theorem State.releaseBind_withClocks (d : Nat) :
    (s.withClocks edges ticks).releaseBind d = (s.releaseBind d).withClocks edges ticks := by
  have hbuf : (s.withClocks edges ticks).buf = s.buf := rfl
  simp only [State.releaseBind, hbuf]
  cases (s.buf.desc d).bound <;> rfl

theorem State.returnBlock_withClocks (x : Line) :
    (s.withClocks edges ticks).returnBlock x = (s.returnBlock x).withClocks edges ticks := by
  have hrx : (s.withClocks edges ticks).rx = s.rx := rfl
  rw [State.returnBlock, State.returnBlock, hrx]
  cases (s.rx.get x).filling with
  | none => rfl
  | some d =>
    dsimp only
    rw [State.releaseBind_withClocks]
    rfl

theorem State.loseSync_withClocks (x : Line) :
    (s.withClocks edges ticks).loseSync x = (s.loseSync x).withClocks edges ticks := by
  rw [State.loseSync, State.toHunt, State.abandon, State.returnBlock_withClocks]
  rfl

theorem State.expire_withClocks (x : Line) :
    (s.withClocks edges ticks).expire x = (s.expire x).withClocks edges ticks := by
  have hrx : (s.withClocks edges ticks).rx = s.rx := rfl
  rw [State.expire, State.expire, hrx]
  split_ifs
  · exact State.loseSync_withClocks (s.countRx x fun c => { c with deadlineAbandons := satAdd c.deadlineAbandons 1 })
      edges ticks x
  · rfl

theorem State.expireInterval_withClocks :
    (s.withClocks edges ticks).expireInterval = s.expireInterval.withClocks edges ticks := by
  have hemitter : (s.withClocks edges ticks).emitter = s.emitter := rfl
  rw [State.expireInterval, State.expireInterval, hemitter]
  split_ifs <;> rfl

theorem State.reach_withClocks (k : TickTaker) :
    (s.withClocks edges ticks).reach k = (s.reach k).withClocks edges ticks := by
  cases k with
  | deadline x =>
    exact State.expire_withClocks
      (({ s with owed := s.owed.erase (.deadline x) } : State).modRx x fun r => { r with deadline := r.deadline.tick })
      edges ticks x
  | queue x => rfl
  | timer =>
    exact State.expireInterval_withClocks
      { s with owed := s.owed.erase .timer, emitter := { s.emitter with timer := s.emitter.timer.tick } } edges ticks

theorem State.deliver_withClocks (k : TickTaker) :
    (s.withClocks edges ticks).deliver k = (s.deliver k).withClocks edges ticks := by
  have howed : (s.settle.withClocks edges ticks).owed = s.settle.owed := rfl
  rw [State.deliver, State.deliver, State.settle_withClocks, howed, State.reach_withClocks]
  split_ifs <;> rfl

theorem State.foldl_deliver_withClocks (ks : List TickTaker) :
    ks.foldl State.deliver (s.withClocks edges ticks) = (ks.foldl State.deliver s).withClocks edges ticks := by
  induction ks generalizing s with
  | nil => rfl
  | cons k ks ih => rw [List.foldl_cons, State.deliver_withClocks, ih, List.foldl_cons]

end

/-! ### The blocks that the tick has still to reach -/

theorem State.reach_owed (s : State) (k : TickTaker) : (s.reach k).owed = s.owed.erase k := by
  cases k <;> simp [State.reach, State.tickTo]

/-- What is due is taken first, and a reset ends the tick. -/
theorem State.settle_owed (s : State) : s.settle.owed = s.owed ∨ s.settle.owed = [] := by
  simp only [State.settle, State.drain_kept, State.takeIfDue, State.reinitIfDue]
  split_ifs <;> simp

theorem State.settle_owed_sublist (s : State) : s.settle.owed.Sublist s.owed := by
  rcases s.settle_owed with h | h
  · rw [h]
  · rw [h]
    exact List.nil_sublist _

theorem State.deliver_owed_sublist (s : State) (k : TickTaker) : (s.deliver k).owed.Sublist (s.owed.erase k) := by
  have hsub := s.settle_owed_sublist.erase k
  unfold State.deliver
  split_ifs with hk
  · rwa [State.reach_owed]
  · rwa [List.erase_of_not_mem hk] at hsub

/-- Once the tick has reached every block that it owed, it owes none. -/
theorem State.foldl_deliver_owed (ks : List TickTaker) (s : State) (h : s.owed.Sublist ks) :
    (ks.foldl State.deliver s).owed = [] := by
  induction ks generalizing s with
  | nil => exact List.sublist_nil.1 h
  | cons k ks ih =>
    refine ih _ ((s.deliver_owed_sublist k).trans ?_)
    have herase := h.erase k
    rwa [List.erase_cons_head] at herase

theorem State.deliver_low (s : State) (k : TickTaker) (h : s.resetHigh = false) : (s.deliver k).resetHigh = false := by
  have hsettle := s.settle_resetHigh h
  unfold State.deliver
  split_ifs <;> simp [hsettle]

theorem State.foldl_deliver_low (ks : List TickTaker) (s : State) (h : s.resetHigh = false) :
    (ks.foldl State.deliver s).resetHigh = false := by
  induction ks generalizing s with
  | nil => exact h
  | cons k ks ih => exact ih _ (s.deliver_low k h)

/-! ### The tick under way, and a new one -/

theorem exec_timebaseTick_of_quiet (s : State) (h : s.quiet = true) : exec .timebaseTick s = .next s.tick := by
  rw [exec, execTimebaseTick, s.running_of_quiet _ h]

/-- The tick under way goes on to takers that it all owes. -/
theorem State.tick_of_all_owed (s : State) (hne : s.takers ≠ []) (h : ∀ k ∈ s.takers, k ∈ s.owed) :
    s.tick = s.takers.foldl State.deliver { s with ticks := s.ticks.tail } := if_pos ⟨hne, h⟩

theorem State.tick_of_new (s : State) (h : s.takers = [] ∨ ∃ k ∈ s.takers, k ∉ s.owed) : s.tick = s.newTick := by
  refine if_neg fun hall => ?_
  obtain ⟨hne, howed⟩ := hall
  rcases h with hnil | ⟨k, hk, hnot⟩
  · exact hne hnil
  · exact hnot (howed k hk)

/-- A new tick is one after a step that finishes the tick under way. -/
theorem State.newTick_eq (s : State) (h : s.quiet = true) (hne : s.owed ≠ []) :
    ∃ t, exec .timebaseTick { s with ticks := s.owed :: s.ticks } = .next t ∧ .next s.newTick = exec .timebaseTick t := by
  have hlow : s.resetHigh = false := (s.quiet_iff.1 h).1
  let t := s.owed.foldl State.deliver s
  have hexec : exec .timebaseTick { s with ticks := s.owed :: s.ticks } = .next t := by
    refine (exec_timebaseTick_of_quiet { s with ticks := s.owed :: s.ticks } h).trans ?_
    exact congrArg _ (State.tick_of_all_owed { s with ticks := s.owed :: s.ticks } hne fun _ hk => hk)
  have hlow' : t.resetHigh = false := State.foldl_deliver_low _ s hlow
  have howed : t.settle.owed = [] := by
    have hnone : t.owed = [] := State.foldl_deliver_owed _ s (List.Sublist.refl _)
    rcases t.settle_owed with hsettle | hsettle
    · rw [hsettle, hnone]
    · exact hsettle
  have hticks : t.settle.ticks = s.ticks := by simp [t]
  have hedges : t.settle.edges = s.edges := by simp [t]
  have hfinish : State.finishTick { s with ticks := s.ticks.tail } = { t.settle with ticks := t.settle.ticks.tail } := by
    have hdelivered := s.foldl_deliver_withClocks s.edges s.ticks.tail s.owed
    have hsettled := t.settle_withClocks s.edges s.ticks.tail
    have heq : State.finishTick { s with ticks := s.ticks.tail } = t.settle.withClocks s.edges s.ticks.tail :=
      (congrArg State.settle hdelivered).trans hsettled
    rw [heq, hticks, ← hedges]
    rfl
  refine ⟨t, hexec, ?_⟩
  rw [exec, execTimebaseTick, t.running_of_low _ hlow', State.tick_of_none_owed _ (t.settle_quiet hlow') howed,
    State.newTick, hfinish, State.takers, State.takers, hticks]

end Sys2Proof.Machine

/-! PROOF. A whole tick (R30, R104, R172, R180): every ticket, countdown and timer a millisecond on. -/

namespace Sys2Proof.Machine

/-! ### A millisecond at a block, no countdown expiring -/

/-- A millisecond passes at a block. -/
def State.elapse (s : State) : TickTaker → State
  | .deadline x => s.modRx x fun r => { r with deadline := r.deadline.tick }
  | .queue x => { s with buf := s.buf.ageTickets x }
  | .timer => { s with emitter := { s.emitter with timer := s.emitter.timer.tick } }

/-- No countdown of a block is at its last millisecond. -/
def State.early (s : State) : TickTaker → Prop
  | .deadline x => ∀ n, (s.rx.get x).deadline = .running n → 2 ≤ n
  | .queue _ => True
  | .timer => ∀ n, s.emitter.timer = .running n → 2 ≤ n

theorem Deadline.tick_ne_zero (d : Deadline) (h : ∀ n, d = .running n → 2 ≤ n) : d.tick ≠ .running 0 := by
  cases d with
  | stopped => simp [Deadline.tick]
  | running n =>
    have hn := h n rfl
    simp only [Deadline.tick, ne_eq, Deadline.running.injEq]
    omega

theorem Timer.tick_ne_zero (m : Timer) (h : ∀ n, m = .running n → 2 ≤ n) : m.tick ≠ .running 0 := by
  cases m with
  | expired => simp [Timer.tick]
  | running n =>
    have hn := h n rfl
    simp only [Timer.tick, ne_eq, Timer.running.injEq]
    omega

theorem Timer.tick_eq_expired (m : Timer) : (m.tick = .expired) = (m = .expired) := by
  cases m <;> simp [Timer.tick]

section

variable (s : State) (k : TickTaker)

theorem State.reach_of_early (h : s.early k) :
    s.reach k = State.elapse { s with owed := s.owed.erase k } k := by
  cases k with
  | deadline x =>
    have hne := Deadline.tick_ne_zero _ h
    simp only [State.reach, State.tickTo, State.expire, State.modRx_rx, PerLine.get_modify_same, if_neg hne, State.elapse]
  | queue x => rfl
  | timer =>
    have hne := Timer.tick_ne_zero _ h
    simp only [State.reach, State.tickTo, State.expireInterval, if_neg hne, State.elapse]

theorem State.elapse_owed (owed : List TickTaker) :
    { s.elapse k with owed } = State.elapse { s with owed } k ∧ (s.elapse k).owed = s.owed := by
  cases k <;> exact ⟨rfl, rfl⟩

theorem State.elapse_quiet : (s.elapse k).quiet = s.quiet := by
  cases k with
  | deadline x => rfl
  | queue x => rfl
  | timer =>
    have hbuild : (s.elapse .timer).buildDue = s.buildDue := by
      rw [Bool.eq_iff_iff, State.buildDue_iff, State.buildDue_iff]
      simp only [State.elapse, Timer.tick_eq_expired]
    simp only [State.quiet, hbuild]
    rfl

theorem State.early_elapse_other {k' : TickTaker} (hne : k' ≠ k) (h : s.early k') : (s.elapse k).early k' := by
  cases k' with
  | queue x => trivial
  | timer =>
    cases k with
    | deadline y => exact h
    | queue y => exact h
    | timer => exact absurd rfl hne
  | deadline x =>
    cases k with
    | queue y => exact h
    | timer => exact h
    | deadline y =>
      have hxy : x ≠ y := fun hxy => hne (congrArg _ hxy)
      have hget : ((s.elapse (.deadline y)).rx.get x) = s.rx.get x := PerLine.get_modify_other _ _ hxy
      intro n
      rw [hget]
      exact h n

end

/-- A tick that expires nothing, at one block after another. -/
theorem State.foldl_deliver_of_early (ks : List TickTaker) (s : State) (hquiet : s.quiet = true) (hnodup : ks.Nodup)
    (howed : ∀ k ∈ ks, k ∈ s.owed) (hearly : ∀ k ∈ ks, s.early k) :
    ks.foldl State.deliver s = ks.foldl State.elapse { s with owed := s.owed.diff ks } := by
  induction ks generalizing s with
  | nil => rfl
  | cons k ks ih =>
    obtain ⟨hnot, hnodup'⟩ := List.nodup_cons.1 hnodup
    have hne (k' : TickTaker) (hk' : k' ∈ ks) : k' ≠ k := fun h => hnot (h ▸ hk')
    let u : State := { s with owed := s.owed.erase k }
    have hdeliver : s.deliver k = u.elapse k := by
      rw [s.deliver_of_quiet k hquiet (howed k (List.mem_cons_self ..)), s.reach_of_early k (hearly k (List.mem_cons_self ..))]
    have hrest : (u.elapse k).owed = s.owed.erase k := (u.elapse_owed k []).2
    have hquiet' : (u.elapse k).quiet = true := (u.elapse_quiet k).trans hquiet
    have hearly' (k' : TickTaker) (hk' : k' ∈ ks) : (u.elapse k).early k' :=
      u.early_elapse_other k (hne k' hk') (hearly k' (List.mem_cons_of_mem _ hk'))
    rw [List.foldl_cons, hdeliver, ih (u.elapse k) hquiet' hnodup' (fun k' hk' => ?_) hearly',
      (u.elapse_owed k _).1, hrest, List.diff_cons, List.foldl_cons]
    rw [hrest]
    exact (List.mem_erase_of_ne (hne k' hk')).2 (howed k' (List.mem_cons_of_mem _ hk'))

/-! ### The whole tick -/

/-- The part a millisecond on. -/
def State.later (s : State) : State := TickTaker.all.foldl State.elapse s

theorem ageTickets_all (b : Buffer) :
    (((b.ageTickets .a).ageTickets .b).ageTickets .l).tickets =
      b.tickets.map fun k => if k.state = .waiting then { k with age := min (k.age + 1) 65535 } else k := by
  simp only [Buffer.ageTickets, List.map_map]
  refine List.map_congr_left fun k _ => ?_
  obtain ⟨state, desc, line, cls, age⟩ := k
  by_cases hstate : state = .waiting
  · cases line <;> simp [hstate, ageOnce]
  · simp [hstate]

theorem State.later_rx (s : State) (x : Line) :
    s.later.rx.get x = { s.rx.get x with deadline := (s.rx.get x).deadline.tick } := by
  cases x <;> rfl

theorem State.changesOnly_later (s : State) : s.changesOnly s.later [.tickets, .rx .a, .rx .b, .rx .l, .emitter] := by
  intro p hp
  cases p
  case tickets | emitter => simp at hp
  case rx x => cases x <;> simp at hp
  all_goals simp [Part.same, State.later, TickTaker.all, State.elapse, Buffer.ageTickets]

theorem State.early_issue (s : State) (k : TickTaker) :
    (State.issue { s with ticks := s.ticks.tail }).early k ↔ s.early k := by
  cases k <;> exact Iff.rfl

/-- A tick that expires nothing. -/
theorem State.tick_of_early (s : State) (hquiet : s.quiet = true) (howed : s.owed = [])
    (htakers : s.takers = TickTaker.all) (hearly : ∀ k, s.early k) :
    s.tick = State.later { s with divideCount := 0, owed := [], ticks := s.ticks.tail } := by
  have hdelivered := State.foldl_deliver_of_early TickTaker.all (State.issue { s with ticks := s.ticks.tail }) hquiet
    (by decide) (fun _ h => h) fun k _ => (s.early_issue k).2 (hearly k)
  rw [s.tick_of_none_owed hquiet howed, htakers, hdelivered]
  rfl

/-- Settles O7: the whole tick, the tick that goes on, and the tick at each block. -/
theorem tickAgesAndCountsDown : Obligations.TickAgesAndCountsDown := by
  unfold Obligations.TickAgesAndCountsDown
  refine ⟨fun s hquiet howed htakers hdeadlines htimer => ?whole, fun s hquiet => ⟨fun howed => ?new, fun hne hall => ?goesOn,
    fun hne hnew => ?finishes⟩, fun s k => ⟨fun hnot => if_neg hnot, fun hk => ?block⟩⟩
  case whole =>
    have hearly (k : TickTaker) : s.early k := by
      cases k with
      | deadline x => exact hdeadlines x
      | queue x => trivial
      | timer => exact htimer
    let s0 : State := { s with divideCount := 0, owed := [], ticks := s.ticks.tail }
    have hframe : s.changesOnly s.tick [.signals, .ticks, .tickets, .rx .a, .rx .b, .rx .l, .emitter] := by
      have hinputs : s.changesOnly s0 [.signals, .ticks] := by
        intro p hp
        cases p
        case signals | ticks => simp at hp
        case owed => exact howed.symm
        all_goals simp [Part.same, s0]
      rw [s.tick_of_early hquiet howed htakers hearly]
      exact State.changesOnly_trans hinputs s0.changesOnly_later
    have htick : s.tick = s0.later := s.tick_of_early hquiet howed htakers hearly
    refine ⟨s.tick, exec_timebaseTick_of_quiet s hquiet, ?_, ?_, ?_, fun x => ?_, ?_, hframe⟩
    · rw [htick]
      rfl
    · rw [htick]
      exact (s.quiet_iff.1 hquiet).1
    · rw [htick]
      exact ageTickets_all s.buf
    · rw [htick, s0.later_rx x]
      cases (s.rx.get x).deadline <;> simp [s0, Deadline.tick]
    · rw [htick]
      cases htimer : s.emitter.timer <;> simp [State.later, TickTaker.all, State.elapse, s0, htimer, Timer.tick]
  case new =>
    exact (exec_timebaseTick_of_quiet s hquiet).trans (congrArg _ (s.tick_of_none_owed hquiet howed))
  case goesOn =>
    exact (exec_timebaseTick_of_quiet s hquiet).trans (congrArg _ (s.tick_of_all_owed hne hall))
  case finishes =>
    obtain ⟨t, hexec, heq⟩ := s.newTick_eq hquiet hne
    exact ⟨t, hexec, (exec_timebaseTick_of_quiet s hquiet).trans ((congrArg _ (s.tick_of_new hnew)).trans heq)⟩
  case block =>
    have hdeliver : s.deliver k = s.settle.reach k := if_pos hk
    refine ⟨fun x hx => ?_, fun htimer => ?_, fun x hx => ⟨fun hstopped => ?_, fun n hn => ⟨fun hlong => ?_, fun hlast => ?_⟩⟩⟩
    · subst hx
      rw [hdeliver, State.reach_queue]
      rfl
    · subst htimer
      exact hdeliver.trans s.settle.reach_timer
    · subst hx
      rw [hdeliver, State.reach_deadline_stopped s.settle x hstopped]
    · subst hx
      obtain ⟨m, rfl⟩ := Nat.exists_eq_add_of_le' hlong
      rw [hdeliver, State.reach_deadline_running s.settle x m hn]
      rfl
    · subst hx
      rw [hdeliver]
      exact State.expires_reach s.settle x n hn hlast

end Sys2Proof.Machine

/-! PROOF. A step of the part: every command answers a next state and leaves the commands and edges that wait, and the step
of an empty queue is one clock edge (R179, R180; logs 7 and 22). -/

namespace Sys2Proof.Machine

/-! ### The commands and edges that wait -/

/-- The commands and edges that wait are as they were. -/
def State.spares (s t : State) : Prop := t.pending = s.pending ∧ t.edges = s.edges

theorem State.spares_refl (s : State) : s.spares s := ⟨rfl, rfl⟩

theorem State.spares_trans {s t u : State} (hst : s.spares t) (htu : t.spares u) : s.spares u :=
  ⟨htu.1.trans hst.1, htu.2.trans hst.2⟩

section

variable (s : State)

theorem State.spares_settle : s.spares s.settle := by simp [State.spares]

theorem State.spares_reinitIfDue : s.spares s.reinitIfDue := by
  unfold State.reinitIfDue
  split_ifs <;> simp [State.spares]

theorem State.spares_takeIfDue : s.spares s.takeIfDue := by
  unfold State.takeIfDue
  split_ifs <;> simp [State.spares]

theorem State.spares_buildNow : s.spares s.buildNow := by
  unfold State.buildNow
  split_ifs <;> simp [State.spares]

theorem State.spares_running (f : State → State) (hf : ∀ t : State, t.spares (f t)) : s.spares (s.running f) := by
  unfold State.running
  split_ifs
  · exact s.spares_refl
  · exact State.spares_trans s.spares_settle (hf _)

theorem State.spares_receiveOctet (x : Line) (o : Byte) : s.spares (s.receiveOctet x o) := by
  have hbits : ∀ (bits : List Bool) (s : State), s.spares (bits.foldl (fun s bit => s.settle.receiveBit x bit) s) := by
    intro bits
    induction bits with
    | nil => exact State.spares_refl
    | cons b bits ih =>
      intro s
      have hbit : s.spares (s.settle.receiveBit x b) := by simp [State.spares]
      exact State.spares_trans hbit (ih _)
  unfold State.receiveOctet
  split_ifs
  · simp [State.spares]
  · exact hbits _ s

theorem State.spares_finishFlush : s.spares s.finishFlush := by
  unfold State.finishFlush
  split_ifs <;> simp [State.spares]

theorem State.spares_atRecord (f : State → State) (hf : ∀ t : State, t.spares (f t)) : s.spares (s.atRecord f) :=
  s.spares_running _ fun t => State.spares_trans t.spares_finishFlush (hf _)

theorem State.spares_answer (h : RecordHead) (status : Status) (data : List Byte) :
    s.spares (s.answer h status data) := by
  simp [State.spares]

end

/-! ### Requests (chapter 8) -/

theorem State.spares_serve (s : State) (code : Byte) (respond : Session → List Byte → State → Response)
    (h : ∀ ss params, s.spares (respond ss params s).state) : s.spares (s.serve code respond) := by
  unfold State.serve
  split
  · split_ifs
    · exact State.spares_trans (h _ _) (State.spares_answer _ _ _ _)
    · exact s.spares_refl
  · exact s.spares_refl

theorem spares_readGroup (s : State) (group subject : Byte) (clear : Bool) :
    s.spares (s.readGroup group subject clear).state := by
  unfold State.readGroup
  repeat' split
  all_goals simp [State.spares, refuse, accept]

theorem spares_identify (ss : Session) (params : List Byte) (s : State) :
    s.spares (respondIdentify ss params s).state := by
  simp [respondIdentify, State.spares, accept]

theorem spares_lineSet (ss : Session) (params : List Byte) (s : State) :
    s.spares (respondLineSet ss params s).state := by
  unfold respondLineSet
  repeat' split
  all_goals simp [State.spares, refuse, accept]

theorem spares_lineGet (ss : Session) (params : List Byte) (s : State) :
    s.spares (respondLineGet ss params s).state := by
  unfold respondLineGet
  repeat' split
  all_goals simp [State.spares, refuse, accept]

theorem spares_lineRestart (ss : Session) (params : List Byte) (s : State) :
    s.spares (respondLineRestart ss params s).state := by
  unfold respondLineRestart
  repeat' split
  all_goals simp [State.spares, refuse, accept]

theorem spares_queueFlush (ss : Session) (params : List Byte) (s : State) :
    s.spares (respondQueueFlush ss params s).state := by
  unfold respondQueueFlush
  repeat' split
  all_goals simp [State.spares, refuse, accept]

theorem spares_defaultSet (ss : Session) (params : List Byte) (s : State) :
    s.spares (respondDefaultSet ss params s).state := by
  unfold respondDefaultSet
  repeat' split
  all_goals simp [State.spares, refuse, accept]

theorem spares_routeInsert (ss : Session) (params : List Byte) (s : State) :
    s.spares (respondRouteInsert ss params s).state := by
  unfold respondRouteInsert
  repeat' split
  all_goals simp [State.spares, refuse, accept]

theorem spares_routeUpdate (ss : Session) (params : List Byte) (s : State) :
    s.spares (respondRouteUpdate ss params s).state := by
  unfold respondRouteUpdate
  repeat' split
  all_goals simp [State.spares, refuse, accept]

theorem spares_routeDelete (ss : Session) (params : List Byte) (s : State) :
    s.spares (respondRouteDelete ss params s).state := by
  unfold respondRouteDelete
  repeat' split
  all_goals simp [State.spares, refuse, accept]

theorem spares_routeRead (ss : Session) (params : List Byte) (s : State) :
    s.spares (respondRouteRead ss params s).state := by
  unfold respondRouteRead
  repeat' split
  all_goals simp [State.spares, refuse, accept]

theorem spares_routeFind (ss : Session) (params : List Byte) (s : State) :
    s.spares (respondRouteFind ss params s).state := by
  unfold respondRouteFind
  repeat' split
  all_goals simp [State.spares, refuse, accept]

theorem spares_noticeSet (ss : Session) (params : List Byte) (s : State) :
    s.spares (respondNoticeSet ss params s).state := by
  unfold respondNoticeSet
  repeat' split
  all_goals simp [State.spares, refuse, accept]

theorem spares_selfSet (ss : Session) (params : List Byte) (s : State) :
    s.spares (respondSelfSet ss params s).state := by
  unfold respondSelfSet
  repeat' split
  all_goals simp [State.spares, refuse, accept]

theorem spares_flushAll (ss : Session) (params : List Byte) (s : State) :
    s.spares (respondFlushAll ss params s).state := by
  simp [respondFlushAll, State.spares, accept]

theorem spares_reinit (ss : Session) (params : List Byte) (s : State) : s.spares (respondReinit ss params s).state := by
  simp [respondReinit, State.spares, accept]

theorem spares_countersRead (ss : Session) (params : List Byte) (s : State) :
    s.spares (respondCountersRead ss params s).state := by
  unfold respondCountersRead
  repeat' split
  · exact spares_readGroup s _ _ _
  all_goals exact s.spares_refl

/-! ### Commands -/

/-- A command's outcome is a next state, the commands and edges that wait being as they were. -/
def nextSpares (c : Instr) (s : State) : Prop := ∃ t, exec c s = .next t ∧ s.spares t

theorem nextSpares_of_running (c : Instr) (s : State) (f : State → State) (h : exec c s = .next (s.running f))
    (hf : ∀ t : State, t.spares (f t)) : nextSpares c s := ⟨_, h, s.spares_running f hf⟩

theorem nextSpares_of_atRecord (c : Instr) (s : State) (f : State → State) (h : exec c s = .next (s.atRecord f))
    (hf : ∀ t : State, t.spares (f t)) : nextSpares c s := ⟨_, h, s.spares_atRecord f hf⟩

theorem nextSpares_of_serve (c : Instr) (s : State) (code : Byte) (respond : Session → List Byte → State → Response)
    (h : exec c s = .next (s.atRecord fun t => t.serve code respond))
    (hrespond : ∀ ss params (t : State), t.spares (respond ss params t).state) : nextSpares c s :=
  nextSpares_of_atRecord c s _ h fun t => t.spares_serve code respond fun ss params => hrespond ss params t

theorem nextSpares_of_low (c : Instr) (s t : State) (h : exec c s = .next (if s.resetHigh then s else t))
    (ht : s.spares t) : nextSpares c s := by
  refine ⟨_, h, ?_⟩
  split_ifs
  · exact s.spares_refl
  · exact ht

theorem nextSpares_all (c : Instr) (s : State) : nextSpares c s := by
  cases c with
  | hardwareReset => exact ⟨_, rfl, by simp [State.spares, State.holdReset]⟩
  | resetNegated =>
    refine ⟨_, rfl, ?_⟩
    split_ifs <;> exact s.spares_refl
  | sessionTake => exact nextSpares_of_low _ s _ rfl (State.spares_trans s.spares_reinitIfDue (State.spares_takeIfDue _))
  | reinitReset => exact nextSpares_of_low _ s _ rfl s.spares_reinitIfDue
  | noticeBuild => exact nextSpares_of_low _ s _ rfl (State.spares_trans s.spares_reinitIfDue (State.spares_buildNow _))
  | timebaseTick => exact nextSpares_of_running _ s _ rfl fun t => by simp [State.spares]
  | huntMatch x b | huntComparisonNoMatch x b => exact nextSpares_of_running _ s _ rfl fun t => by simp [State.spares]
  | octetInConfirm x o | octetInGap x o | octetInGapSyn x o | headerOctet x o
  | headerCompletion x o | textOctet x o | checkOctet x o | blockCompletion x o =>
    exact nextSpares_of_running _ s _ rfl fun t => t.spares_receiveOctet x o
  | deadlineExpiry x =>
    refine nextSpares_of_running _ s _ rfl fun t => ?_
    split_ifs <;> simp [State.spares]
  | intervalTimerExpiry =>
    refine nextSpares_of_running _ s _ rfl fun t => ?_
    split_ifs <;> simp [State.spares]
  | fillPairEnd x hold further | gapPairEnd x hold further =>
    exact nextSpares_of_running _ s _ rfl fun t => by simp [State.spares]
  | blockSent x => exact nextSpares_of_running _ s _ rfl fun t => by simp [State.spares]
  | sessionEnd => exact nextSpares_of_atRecord _ s _ rfl fun t => by simp [State.spares]
  | malformedRecord | walkTruncation | skippedRecord | unknownRequestRecord | badLengthRecord =>
    refine nextSpares_of_atRecord _ s _ rfl fun t => ?_
    split <;> simp [State.spares]
  | identify => exact nextSpares_of_serve _ s _ _ rfl spares_identify
  | lineSet => exact nextSpares_of_serve _ s _ _ rfl spares_lineSet
  | lineGet => exact nextSpares_of_serve _ s _ _ rfl spares_lineGet
  | lineRestart => exact nextSpares_of_serve _ s _ _ rfl spares_lineRestart
  | queueFlush => exact nextSpares_of_serve _ s _ _ rfl spares_queueFlush
  | defaultSet => exact nextSpares_of_serve _ s _ _ rfl spares_defaultSet
  | routeInsert => exact nextSpares_of_serve _ s _ _ rfl spares_routeInsert
  | routeUpdate => exact nextSpares_of_serve _ s _ _ rfl spares_routeUpdate
  | routeDelete => exact nextSpares_of_serve _ s _ _ rfl spares_routeDelete
  | routeRead => exact nextSpares_of_serve _ s _ _ rfl spares_routeRead
  | routeFind => exact nextSpares_of_serve _ s _ _ rfl spares_routeFind
  | noticeSet => exact nextSpares_of_serve _ s _ _ rfl spares_noticeSet
  | selfSet => exact nextSpares_of_serve _ s _ _ rfl spares_selfSet
  | reinit => exact nextSpares_of_serve _ s _ _ rfl spares_reinit
  | countersRead => exact nextSpares_of_serve _ s _ _ rfl spares_countersRead
  | flushAll =>
    refine nextSpares_of_running _ s _ rfl fun t => ?_
    split_ifs
    · simp [State.spares]
    · exact State.spares_trans t.spares_finishFlush (State.spares_serve _ _ _ fun ss params => spares_flushAll ss params _)

/-! ### Clock edges -/

theorem LineOut.bit_of_inside (out : LineOut) (k : Nat) (h : k + 1 < 8 * out.octets.length) :
    out.bit k = (out.octets.getD (k / 8) 0).getLsbD (k % 8) := by
  cases out with
  | heldHigh => simp [LineOut.octets] at h
  | pair syn1 syn2 => rfl
  | block os => rfl

/-- In a quiet part the step of an empty queue is its edge. -/
theorem step_of_edge (s : State) (e : Edge) (hpending : s.pending = []) (hquiet : s.quiet = true)
    (he : s.edges.headD .refclk = e) : step s = .next (State.takeEdge { s with edges := s.edges.tail } e) := by
  have hquiet' : State.quiet { s with edges := s.edges.tail } = true := hquiet
  rw [step_of_empty s hpending, State.idle, State.running_of_quiet _ _ hquiet', he]

theorem State.tcEdge_of_inside (s : State) (x : Line) (hold : Bool) (further : List Bool)
    (h : (s.tx.get x).place + 1 < 8 * (s.tx.get x).out.octets.length) :
    s.tcEdge x hold further =
      { s with
        tx := s.tx.set x
          { s.tx.get x with
            place := (s.tx.get x).place + 1
            tdx := ((s.tx.get x).out.octets.getD ((s.tx.get x).place / 8) 0).getLsbD ((s.tx.get x).place % 8) } } := by
  rw [State.tcEdge, if_pos h, State.modTx, PerLine.modify_eq_set, LineOut.bit_of_inside _ _ h]

theorem State.tcEdge_of_last (s : State) (x : Line) (hold : Bool) (further : List Bool)
    (h : 8 * (s.tx.get x).out.octets.length ≤ (s.tx.get x).place + 1) :
    s.tcEdge x hold further = s.endUnit x hold further :=
  if_neg (Nat.not_lt.2 h)

/-- The command that ends the unit under way. -/
def unitEnd (st : TxState) (x : Line) (hold : Bool) (further : List Bool) : Instr :=
  match st with
  | .fill => .fillPairEnd x hold further
  | .gap => .gapPairEnd x hold further
  | .sending => .blockSent x

theorem exec_unitEnd (s : State) (x : Line) (hold : Bool) (further : List Bool) (h : s.quiet = true) :
    exec (unitEnd (s.tx.get x).state x hold further) s = .next (s.endUnit x hold further) := by
  rw [State.endUnit]
  cases (s.tx.get x).state with
  | fill => exact congrArg _ (s.running_of_quiet (fun s => s.endFillPair x hold further) h)
  | gap => exact congrArg _ (s.running_of_quiet (fun s => s.endGapPair x hold further) h)
  | sending => exact congrArg _ (s.running_of_quiet (fun s => s.endBlockSent x) h)

/-- At the last count a REFCLK edge issues a tick. -/
theorem State.refclkEdge_of_last (s : State) (h : 3999 ≤ s.divideCount) : s.refclkEdge = s.newTick :=
  if_neg (Nat.not_lt.2 h)

/-- Where no tick is under way a tick command issues one. -/
theorem State.tick_eq_newTick (s : State) (h : s.owed = []) : s.tick = s.newTick := by
  refine s.tick_of_new ?_
  rcases List.eq_nil_or_concat s.takers with hnil | ⟨ks, k, hks⟩
  · exact .inl hnil
  · exact .inr ⟨k, by simp [hks], by simp [h]⟩

/-- Settles O2: commands answer next states, and an empty queue lets one edge pass. -/
theorem everyStepAnswersANextState : Obligations.EveryStepAnswersANextState := by
  unfold Obligations.EveryStepAnswersANextState
  refine ⟨fun c s => nextSpares_all c s, fun s hpending => ?_⟩
  intro s1
  refine ⟨fun hreset => ?_, fun hquiet hrefclk => ?refclk, fun x hold further hquiet htc => ?tc⟩
  · rw [step_of_empty s hpending, State.idle, State.running_of_reset s1 _ hreset]
  case refclk =>
    have hstep : step s = .next s1.refclkEdge := step_of_edge s _ hpending hquiet hrefclk
    refine ⟨fun hbelow => hstep.trans (congrArg _ (if_pos hbelow)), fun hlast howed => ?_, fun hlast howed => ?_⟩
    · rw [hstep, s1.refclkEdge_of_last hlast, exec_timebaseTick_of_quiet s1 hquiet, s1.tick_eq_newTick howed]
    · obtain ⟨t, hexec, heq⟩ := s1.newTick_eq hquiet howed
      exact ⟨t, hexec, by rw [hstep, s1.refclkEdge_of_last hlast, heq]⟩
  case tc =>
    have hedge : s.edges.headD .refclk = .tc x hold further := by rw [List.headD_eq_head?_getD, htc, Option.getD_some]
    have hstep : step s = .next (s1.tcEdge x hold further) := step_of_edge s _ hpending hquiet hedge
    refine ⟨fun hinside => hstep.trans (congrArg _ (s1.tcEdge_of_inside x hold further hinside)), fun hend => ?_⟩
    have hcommand := exec_unitEnd s1 x hold further hquiet
    rw [hstep, s1.tcEdge_of_last x hold further hend, ← hcommand]
    rfl

end Sys2Proof.Machine
